-- ==== Sys2Proof/Word.lean ====
section
/-! DEFINITION. The word types of FTSERVO-CODEC: a byte of the wire or of a buffer (R9) and a register of the
host window (R7, REG_WIDTH). -/

namespace Sys2Proof

/-- A byte (R9): 8 bits, bit 0 the least significant. -/
abbrev Byte := BitVec 8

/-- A register of the host window, and a command word (R7 REG_WIDTH, R67). -/
abbrev Word := BitVec 32

end Sys2Proof
end

