-- ==== Sys2Proof/Config.lean ====
section
/-! DEFINITION. What is fixed for the machine: the protocol constants (R6), the constants the spec fixes for this
hardware (R7), the parameters it leaves open (R8), and the free values. The open parameters and the free values have
no body: nothing in Lean can compute one or prove it equal to a number. -/

namespace Sys2Proof

/-- What the transport's `write(bytes) -> count|error` answers (R132). -/
inductive WriteAnswer where
  /-- The transport took bytes up to this count. -/
  | count (n : Nat)
  /-- The transport reported a write error. -/
  | error
deriving DecidableEq, Repr, Inhabited

/-- The outcome of a call of TransportWrite (R11). -/
inductive WriteOutcome where
  /-- The whole frame was taken. -/
  | full
  /-- Only the first `count` bytes were taken, fewer than the frame has. -/
  | short (count : Nat)
  /-- A write error. -/
  | error
deriving DecidableEq, Repr

namespace Config

/-! ### Constants of the protocol (R6) and of this hardware (R7) -/

/-- Each of the two header bytes HDR (R6). -/
abbrev headerByte : Byte := 0xFF

/-- BROADCAST_ID (R6). -/
abbrev broadcastId : Byte := 0xFE

/-- MAX_DEV_ID, the highest individually addressable ID (R6). -/
abbrev maxDevId : Nat := 0xFC

/-- MAX_FRAME, header through checksum (R6, R60; 90_conflicts.md C1). -/
abbrev maxFrame : Nat := 250

/-- MAX_PARAMS (R7): MAX_FRAME - 6. -/
abbrev maxParams : Nat := 244

/-- RX_FRAME_MAX, the largest status frame the scanner accepts (R7). -/
abbrev rxFrameMax : Nat := 250

/-- PARAM_BUF_SIZE (R7). -/
abbrev paramBufSize : Nat := 256

/-- ID_SLOTS: device slots 0x00..0xFC of each group engine (R7). -/
abbrev idSlots : Nat := 253

/-- SLOT_BYTES: bytes of a device slot (R7). -/
abbrev slotBytes : Nat := 255

/-- BAUD_SET (R6, R152): the line rates of the transport. Informative: no rule of the block uses one. -/
def baudSet : List Nat :=
  [4800, 9600, 14400, 19200, 38400, 57600, 115200, 128000, 250000, 500000, 1000000]

/-! ### Parameters the spec leaves open (R8); assumption log 7 -/

/-- The free choice behind BASE (R8). -/
opaque baseIndex : Nat

/-- BASE (R8): any bus address aligned to 0x20000. The model's accesses carry the offset from it. -/
def base : Nat := baseIndex * 0x20000

/-- The bus address of a window offset (R41). -/
def busAddress (off : Nat) : Nat := base + off

/-- The free choice behind RX_CAP (R8). -/
opaque rxCapChoice : Nat

/-- RX_CAP (R8): every value from 256 to 65535 is possible and no other. -/
def rxCap : Nat := 256 + rxCapChoice % 65280

/-- `n <= RX_CAP`. The bounds of R8 answer it without RX_CAP wherever they can. -/
def fitsRxCap (n : Nat) : Bool :=
  decide (n ≤ 256) || (decide (n ≤ 65535) && decide (n ≤ rxCap))

/-- The free choice behind BYTE_TIME (R8). -/
opaque byteTimeChoice : Nat

/-- BYTE_TIME (R8): more than 0. Only `timeoutLength` uses it. -/
def byteTime : Nat := byteTimeChoice + 1

/-- LATENCY_MARGIN (R8): at least 0. Only `timeoutLength` uses it. -/
opaque latencyMargin : Nat

/-- The nominal length of the receive timer for an expected byte count (R134). "No rule depends on when it fires". -/
def timeoutLength (nexp : Nat) : Nat := nexp * byteTime + latencyMargin

/-! ### Free values -/

/-- The byte drawn at the `epoch`-th reset for the buffer byte at a window offset (R141, U1); assumption log 1. -/
opaque resetByte (epoch off : Nat) : Byte

/-- The content of byte `index` of slot `id` where nothing was written since reset (R31, R34, U3); assumption log 2. -/
opaque slotByte (id index : Nat) : Byte

/-- The transport's answer to the `n`-th TransportWrite where no draw is listed (R11, U5); assumption log 4. -/
opaque writeAnswer (n : Nat) : WriteAnswer

end Config

end Sys2Proof
end

