-- ==== Sys2Proof/Machine/Frame.lean ====
section
/-! DEFINITION. The packet codec on byte sequences, without any state: the checksum (R61), the frame builder (R73), whole-frame
validation (R83) and the resynchronizing scanner (R81). -/

namespace Sys2Proof.Machine

/-- Checksum (R61): 255 less the sum of the bytes modulo 256, which is `(~sum) & 0xFF`. -/
def checksum (b : List Byte) : Byte :=
  BitVec.ofNat 8 (255 - (b.map BitVec.toNat).sum % 256)

/-- BuildFrame (R73). `none` is TooLong. -/
def buildFrame (id instr : Byte) (p : List Byte) : Option (List Byte) :=
  if p.length + 6 > Config.maxFrame then none
  else
    let body := [id, BitVec.ofNat 8 (p.length + 2), instr] ++ p
    some ([Config.headerByte, Config.headerByte] ++ body ++ [checksum body])

/-- Valid (R83): whole-frame validation of a byte sequence. -/
def validFrame (f : List Byte) : Bool :=
  match f with
  | h0 :: h1 :: id :: len :: rest =>
    decide (6 ≤ f.length) && h0 == Config.headerByte && h1 == Config.headerByte
      && decide (len.toNat + 4 = f.length)
      && rest.getLast? == some (checksum (id :: len :: rest.dropLast))
  | _ => false

/-- A decoded status packet (R58, R81): ID, ERROR byte and parameters. -/
structure Packet where
  id : Byte
  error : Byte
  params : List Byte
deriving DecidableEq, Repr

/-- What Scan answers (R81). `h` is the candidate's position; the count of consumed bytes is `ScanResult`'s function
`scanConsumed`. -/
inductive ScanResult where
  /-- A frame with a correct checksum. -/
  | packet (h : Nat) (p : Packet)
  /-- A candidate rejected for its checksum or its length byte. -/
  | failed (h : Nat)
  /-- A candidate that needs more bytes. -/
  | incomplete (h : Nat)
  /-- No candidate among `n` bytes. -/
  | noHeader (n : Nat)
deriving DecidableEq, Repr

/-- The bytes Scan consumed (R81). -/
def scanConsumed : ScanResult → Nat
  | .packet h p => h + p.params.length + 6
  | .failed h => h + 1
  | .incomplete h => h
  | .noHeader n => n

/-- The candidate's position, if there is a candidate (R81). -/
def scanPosition : ScanResult → Option Nat
  | .packet h _ => some h
  | .failed h => some h
  | .incomplete h => some h
  | .noHeader _ => none

/-- The checks of R81 on a candidate at `h` once its LEN byte is known; `body` is what follows the LEN byte. "Remaining is
counted from the ID byte": two of the `len + 2` bytes are the ID and LEN themselves. -/
def scanBody (h : Nat) (id len : Byte) (body : List Byte) : ScanResult :=
  if len.toNat < 2 ∨ len.toNat + 4 > Config.rxFrameMax then .failed h
  else if body.length < len.toNat then .incomplete h
  else if body.getD (len.toNat - 1) 0 ≠ checksum (id :: len :: body.take (len.toNat - 1)) then .failed h
  else .packet h ⟨id, body.getD 0 0, (body.take (len.toNat - 1)).drop 1⟩

/-- One pass of Scan's loop at position `h` (R81), `b` being the bytes from `h` on; `none` is the loop's `continue`. -/
def scanAt (any : Bool) (x : Byte) (h : Nat) (b : List Byte) : Option ScanResult :=
  match b with
  | [] => none
  | b0 :: rest =>
    if b0 ≠ Config.headerByte then none
    else match rest with
    | [] => some (.incomplete h)
    | b1 :: rest =>
      if b1 ≠ Config.headerByte then none
      else match rest with
      | [] => some (.incomplete h)
      | id :: rest =>
        if any = false ∧ id ≠ x then none
        else match rest with
        | [] => some (.incomplete h)
        | len :: body => some (scanBody h id len body)

/-- Scan's loop from position `h` on (R81). -/
def scanFrom (any : Bool) (x : Byte) (h : Nat) : List Byte → ScanResult
  | [] => .noHeader h
  | b :: bs =>
    match scanAt any x h (b :: bs) with
    | some r => r
    | none => scanFrom any x (h + 1) bs

/-- Scan, the source's `decode_stream` (R81): `any` accepts every ID byte, otherwise only `x` starts a candidate. -/
def scan (b : List Byte) (any : Bool) (x : Byte) : ScanResult := scanFrom any x 0 b

end Sys2Proof.Machine
end

