-- ==== Sys2Proof/Syntax.lean ====
section
/-! DEFINITION. The instructions: one constructor for each row of spec/opcode_table.json. Seven are wire instructions, which
the block frames (R64, R74 to R80); twenty-five are block commands (R68). A field a command ignores (R67) is no operand. -/

namespace Sys2Proof

/-- The endian mode, flag bit E of the word commands (R68, R90). -/
inductive Endian where
  /-- E = 0: the byte at the lower address is the low byte. -/
  | small
  /-- E = 1: the byte at the lower address is the high byte. -/
  | big
deriving DecidableEq, Repr

/-- An instruction of the opcode table. -/
inductive Instr where
  /-- PING (R74): no parameters. -/
  | ping (id : Byte)
  /-- READ (R75): parameters [address, length]. -/
  | read (id address length : Byte)
  /-- WRITE (R76): parameters [address, data...]. -/
  | write (id address : Byte) (data : List Byte)
  /-- REGWRITE (R77): parameters [address, data...]. -/
  | regwrite (id address : Byte) (data : List Byte)
  /-- ACTION (R78): no parameters. -/
  | action (id : Byte)
  /-- SYNCREAD (R79): sent to 0xFE, parameters [start, L, id_0, id_1, ...]. -/
  | syncread (start len : Byte) (ids : List Byte)
  /-- SYNCWRITE (R80): sent to 0xFE, parameters [start, L] and for each device its ID and L payload bytes. -/
  | syncwrite (start len : Byte) (records : List (Byte × List Byte))
  /-- CODEC_ENCODE id, instr, k (R84). -/
  | codecEncode (id instr k : Byte)
  /-- CODEC_TRANSMIT expect (R85). -/
  | codecTransmit (expect : Bool)
  /-- CODEC_RECEIVE id, any, nexp (R86). -/
  | codecReceive (id : Byte) (any : Bool) (nexp : Byte)
  /-- CODEC_CHECKSUM n (R88). -/
  | codecChecksum (n : Byte)
  /-- CODEC_SCAN id, any, n (R89). -/
  | codecScan (id : Byte) (any : Bool) (n : Byte)
  /-- WORD_MAKE b0, b1, e (R91). -/
  | wordMake (b0 b1 : Byte) (e : Endian)
  /-- WORD_LOBYTE e (R92). -/
  | wordLobyte (e : Endian)
  /-- WORD_HIBYTE e (R93). -/
  | wordHibyte (e : Endian)
  /-- SIGN_TO_HOST s (R95): s is B[3:0]. -/
  | signToHost (s : BitVec 4)
  /-- SIGN_TO_DEVICE s (R96): s is B[3:0]. -/
  | signToDevice (s : BitVec 4)
  /-- GSW_INIT start, L (R99). -/
  | gswInit (start len : Byte)
  /-- GSW_ADD id, n (R100). -/
  | gswAdd (id n : Byte)
  /-- GSW_REMOVE id (R101). -/
  | gswRemove (id : Byte)
  /-- GSW_CHANGE id, n (R102). -/
  | gswChange (id n : Byte)
  /-- GSW_CLEAR (R103). -/
  | gswClear
  /-- GSW_TRANSMIT (R105). -/
  | gswTransmit
  /-- GSR_INIT start, L (R108). -/
  | gsrInit (start len : Byte)
  /-- GSR_ADD id (R109). -/
  | gsrAdd (id : Byte)
  /-- GSR_REMOVE id (R110). -/
  | gsrRemove (id : Byte)
  /-- GSR_CLEAR (R111). -/
  | gsrClear
  /-- GSR_TXREQ (R113). -/
  | gsrTxreq
  /-- GSR_RX (R114). -/
  | gsrRx
  /-- GSR_IS_AVAILABLE id, address, length (R119). -/
  | gsrIsAvailable (id address length : Byte)
  /-- GSR_GET_VALUE id, address (R120). -/
  | gsrGetValue (id address : Byte)
  /-- GSR_ID_RESULT id (R121). -/
  | gsrIdResult (id : Byte)
deriving DecidableEq, Repr

end Sys2Proof
end

