-- ==== Sys2Proof/Machine/Layout.lean ====
section
/-! DEFINITION. The parameter layouts of the wire instructions (R64, R74 to R80). -/

namespace Sys2Proof

/-- The parameters of a wire instruction's frame (R64, R74 to R80); none for a block command. -/
def wireParams : Instr → List Byte
  | .ping _ => []
  | .read _ address length => [address, length]
  | .write _ address data => address :: data
  | .regwrite _ address data => address :: data
  | .action _ => []
  | .syncread start len ids => start :: len :: ids
  | .syncwrite start len records => start :: len :: records.flatMap (fun r => r.1 :: r.2)
  | _ => []

/-- The INSTR byte of a wire instruction (R64); `none` for a block command. -/
def wireOpcode : Instr → Option Byte
  | .ping _ => some 0x01
  | .read _ _ _ => some 0x02
  | .write _ _ _ => some 0x03
  | .regwrite _ _ _ => some 0x04
  | .action _ => some 0x05
  | .syncread _ _ _ => some 0x82
  | .syncwrite _ _ _ => some 0x83
  | _ => none

end Sys2Proof
end

