-- ==== Sys2Proof/WellFormed.lean ====
section
/-! DEFINITION. When an instruction has an encoding. A block command always has one: its operands are the fields of the word
(R67). A wire instruction has one when its frame is no longer than MAX_FRAME, so at most 244 parameters (R60), and when every
payload of a SYNCWRITE is L bytes long (R64). -/

namespace Sys2Proof

/-- The checks on an instruction; see the file's header. -/
def Instr.wellFormed (i : Instr) : Bool :=
  match i with
  | .syncwrite _ len records =>
    records.all (fun r => r.2.length == len.toNat) && decide ((wireParams i).length ≤ Config.maxParams)
  | _ => decide ((wireParams i).length ≤ Config.maxParams)

end Sys2Proof
end

