-- ==== Sys2Proof/Decode.lean ====
section
/-! DEFINITION. Decoding and encoding. A block command is one 32-bit word (R67, R68); a wire instruction is an instruction
packet, a sequence of bytes (R57, R64). Decoding is total and rejects by name. -/

namespace Sys2Proof

/-- What an instruction is encoded as. -/
inductive Encoding where
  /-- The word a host writes to CMD (R67). -/
  | command (w : Word)
  /-- The bytes of an instruction packet, byte 0 first (R43, R57). -/
  | packet (bytes : List Byte)
deriving DecidableEq, Repr

/-- Why bits are no instruction. -/
inductive DecodeError where
  /-- The OP field is reserved (R69). -/
  | reservedOp (op : Byte)
  /-- The bytes are no valid frame: header, LEN or checksum is wrong (R57, R83). -/
  | invalidFrame
  /-- The frame is longer than MAX_FRAME (R60). -/
  | frameTooLong
  /-- The INSTR byte is none of the seven (R65). -/
  | unknownInstr (instr : Byte)
  /-- The parameters, or the ID of a sync instruction, do not have the layout of R64. -/
  | badLayout (instr : Byte)
deriving DecidableEq, Repr

/-! ### The command word (R67) -/

/-- OP = bits 7:0 (R67). -/
def opField (w : Word) : Byte := w.extractLsb' 0 8

/-- A = bits 15:8 (R67). -/
def aField (w : Word) : Byte := w.extractLsb' 8 8

/-- B = bits 23:16 (R67). -/
def bField (w : Word) : Byte := w.extractLsb' 16 8

/-- C = bits 31:24 (R67). -/
def cField (w : Word) : Byte := w.extractLsb' 24 8

/-- `OP | A << 8 | B << 16 | C << 24` (R68). -/
def commandWord (op a b c : Byte) : Word := c ++ b ++ a ++ op

/-- Bit 0 of a flag byte; the other bits are ignored (R67). -/
def flagOf (f : Byte) : Bool := f.getLsbD 0

/-- A flag byte whose bit 0 is the flag. -/
def flagByte (f : Bool) : Byte := if f then 1 else 0

/-- Flag bit E of a flag byte (R68). -/
def endianOf (f : Byte) : Endian := if flagOf f then .big else .small

/-- The flag byte of an endian mode (R68). -/
def endianByte : Endian → Byte
  | .small => 0
  | .big => 1

/-- The sign-bit index s = B[3:0]; B[7:4] is ignored (R94). -/
def signIndexOf (b : Byte) : BitVec 4 := b.extractLsb' 0 4

/-- The B field of a sign-bit index. -/
def signIndexByte (s : BitVec 4) : Byte := 0#4 ++ s

/-- Decoding a command word: only OP selects the command (R68 to R70). -/
def decodeCommand (w : Word) : Except DecodeError Instr :=
  let a := aField w
  let b := bField w
  let c := cField w
  match (opField w).toNat with
  | 0x01 => .ok (.codecEncode a b c)
  | 0x02 => .ok (.codecTransmit (flagOf a))
  | 0x03 => .ok (.codecReceive a (flagOf b) c)
  | 0x04 => .ok (.codecChecksum c)
  | 0x05 => .ok (.codecScan a (flagOf b) c)
  | 0x10 => .ok (.wordMake a b (endianOf c))
  | 0x11 => .ok (.wordLobyte (endianOf c))
  | 0x12 => .ok (.wordHibyte (endianOf c))
  | 0x13 => .ok (.signToHost (signIndexOf b))
  | 0x14 => .ok (.signToDevice (signIndexOf b))
  | 0x20 => .ok (.gswInit b c)
  | 0x21 => .ok (.gswAdd a c)
  | 0x22 => .ok (.gswRemove a)
  | 0x23 => .ok (.gswChange a c)
  | 0x24 => .ok .gswClear
  | 0x25 => .ok .gswTransmit
  | 0x30 => .ok (.gsrInit b c)
  | 0x31 => .ok (.gsrAdd a)
  | 0x32 => .ok (.gsrRemove a)
  | 0x33 => .ok .gsrClear
  | 0x34 => .ok .gsrTxreq
  | 0x35 => .ok .gsrRx
  | 0x36 => .ok (.gsrIsAvailable a b c)
  | 0x37 => .ok (.gsrGetValue a b)
  | 0x38 => .ok (.gsrIdResult a)
  | _ => .error (.reservedOp (opField w))

/-! ### The instruction packet (R57, R64) -/

/-- The records of a SYNCWRITE: an ID and `len` payload bytes each (R64); `none` if the bytes do not divide so. The first
argument bounds the number of records. -/
def splitRecords (len : Nat) : Nat → List Byte → Option (List (Byte × List Byte))
  | _, [] => some []
  | 0, _ :: _ => none
  | n + 1, id :: rest =>
    if rest.length < len then none
    else (splitRecords len n (rest.drop len)).map (fun rs => (id, rest.take len) :: rs)

/-- The wire instruction of an ID, an INSTR byte and parameters (R64). -/
def decodeFields (id instr : Byte) (p : List Byte) : Except DecodeError Instr :=
  match instr.toNat, p with
  | 0x01, [] => .ok (.ping id)
  | 0x02, [address, length] => .ok (.read id address length)
  | 0x03, address :: data => .ok (.write id address data)
  | 0x04, address :: data => .ok (.regwrite id address data)
  | 0x05, [] => .ok (.action id)
  | 0x82, start :: len :: ids =>
    if id = Config.broadcastId then .ok (.syncread start len ids) else .error (.badLayout instr)
  | 0x83, start :: len :: records =>
    if id = Config.broadcastId then
      match splitRecords len.toNat records.length records with
      | some rs => .ok (.syncwrite start len rs)
      | none => .error (.badLayout instr)
    else .error (.badLayout instr)
  | n, _ =>
    if n = 0x01 ∨ n = 0x02 ∨ n = 0x03 ∨ n = 0x04 ∨ n = 0x05 ∨ n = 0x82 ∨ n = 0x83 then
      .error (.badLayout instr)
    else .error (.unknownInstr instr)

/-- Decoding an instruction packet: a valid frame (R83) of at most MAX_FRAME bytes (R60), then the layout of its INSTR
byte (R64). -/
def decodePacket (f : List Byte) : Except DecodeError Instr :=
  if Machine.validFrame f = false then .error .invalidFrame
  else if f.length > Config.maxFrame then .error .frameTooLong
  else match f with
  | _ :: _ :: id :: _ :: instr :: rest => decodeFields id instr rest.dropLast
  | _ => .error .invalidFrame

/-- Decoding, total on every command word and on every sequence of bytes. -/
def decode : Encoding → Except DecodeError Instr
  | .command w => decodeCommand w
  | .packet f => decodePacket f

/-! ### The encoder -/

/-- The frame of a wire instruction (R57); the empty sequence where the frame would be too long. -/
def packetOf (id instr : Byte) (p : List Byte) : Encoding :=
  .packet ((Machine.buildFrame id instr p).getD [])

/-- The words or bytes of an instruction: R68 for a command, with 0 in every field and bit it ignores, and R57 with R64 for a
wire instruction. -/
def encode (i : Instr) : Encoding :=
  match i with
  | .ping id => packetOf id 0x01 (wireParams i)
  | .read id _ _ => packetOf id 0x02 (wireParams i)
  | .write id _ _ => packetOf id 0x03 (wireParams i)
  | .regwrite id _ _ => packetOf id 0x04 (wireParams i)
  | .action id => packetOf id 0x05 (wireParams i)
  | .syncread _ _ _ => packetOf Config.broadcastId 0x82 (wireParams i)
  | .syncwrite _ _ _ => packetOf Config.broadcastId 0x83 (wireParams i)
  | .codecEncode id instr k => .command (commandWord 0x01 id instr k)
  | .codecTransmit expect => .command (commandWord 0x02 (flagByte expect) 0 0)
  | .codecReceive id any nexp => .command (commandWord 0x03 id (flagByte any) nexp)
  | .codecChecksum n => .command (commandWord 0x04 0 0 n)
  | .codecScan id any n => .command (commandWord 0x05 id (flagByte any) n)
  | .wordMake b0 b1 e => .command (commandWord 0x10 b0 b1 (endianByte e))
  | .wordLobyte e => .command (commandWord 0x11 0 0 (endianByte e))
  | .wordHibyte e => .command (commandWord 0x12 0 0 (endianByte e))
  | .signToHost s => .command (commandWord 0x13 0 (signIndexByte s) 0)
  | .signToDevice s => .command (commandWord 0x14 0 (signIndexByte s) 0)
  | .gswInit start len => .command (commandWord 0x20 0 start len)
  | .gswAdd id n => .command (commandWord 0x21 id 0 n)
  | .gswRemove id => .command (commandWord 0x22 id 0 0)
  | .gswChange id n => .command (commandWord 0x23 id 0 n)
  | .gswClear => .command (commandWord 0x24 0 0 0)
  | .gswTransmit => .command (commandWord 0x25 0 0 0)
  | .gsrInit start len => .command (commandWord 0x30 0 start len)
  | .gsrAdd id => .command (commandWord 0x31 id 0 0)
  | .gsrRemove id => .command (commandWord 0x32 id 0 0)
  | .gsrClear => .command (commandWord 0x33 0 0 0)
  | .gsrTxreq => .command (commandWord 0x34 0 0 0)
  | .gsrRx => .command (commandWord 0x35 0 0 0)
  | .gsrIsAvailable id address length => .command (commandWord 0x36 id address length)
  | .gsrGetValue id address => .command (commandWord 0x37 id address 0)
  | .gsrIdResult id => .command (commandWord 0x38 id 0 0)

/-! ### The host's numbering of the opcode table; assumption log 8 -/

/-- The frame of a row of format INSTR_PACKET, of which the table numbers the INSTR byte alone: the ID is 0 (0xFE for the two
sync instructions), every operand byte is 0, and there are as few parameters as the layout of R64 allows. -/
def tablePacket (instr : Nat) : Encoding :=
  match instr with
  | 0x02 => packetOf 0 0x02 [0, 0]
  | 0x03 => packetOf 0 0x03 [0]
  | 0x04 => packetOf 0 0x04 [0]
  | 0x82 => packetOf Config.broadcastId 0x82 [0, 0]
  | 0x83 => packetOf Config.broadcastId 0x83 [0, 0]
  | n => packetOf 0 (BitVec.ofNat 8 n) []

/-- Whether a number is one of the seven INSTR values (R64). -/
def isWireOpcode (n : Nat) : Bool :=
  match n with
  | 0x01 => true
  | 0x02 => true
  | 0x03 => true
  | 0x04 => true
  | 0x05 => true
  | 0x82 => true
  | 0x83 => true
  | _ => false

/-- What a row's bits stand for: a row of 8 bits whose value is one of the seven INSTR values is the INSTR byte of a packet;
every other row is a command word. -/
def tableEncoding (nbits w : Nat) : Encoding :=
  if nbits ≤ 8 ∧ isWireOpcode w = true then tablePacket w else .command (BitVec.ofNat 32 w)

/-- The instruction the decoder reads from a row's bits. -/
def decodeTableWord (nbits w : Nat) : Option Instr :=
  match decode (tableEncoding nbits w) with
  | .ok i => some i
  | .error _ => none

end Sys2Proof
end

