-- ==== Sys2Proof/Machine/State.lean ====
section
/-! DEFINITION. The state: every piece of state the spec gives the block (R15), the transport's queue (R40), and what stands
for the environment (R5). Plain data throughout. -/

namespace Sys2Proof.Machine

/-- The result codes STATUS.RESULT and GSR.idres hold (R123). Codes 14 to 255 are never written, so they are not here. -/
inductive ResultCode where
  | success
  | portBusy
  | txFail
  | txError
  | rxFail
  | rxWaiting
  | rxTimeout
  | rxCorrupt
  | notAvailable
  | duplicateId
  | payloadTooLong
  | notFound
  | invalidId
  | badCommand
deriving DecidableEq, Repr

/-- STATUS.OWNER (R18): who holds the guard. Value 3 is never produced. -/
inductive Owner where
  | nobody
  | codec
  | gsr
deriving DecidableEq, Repr

/-- RXINFO.END (R23): how the last receive ended. Values 5 to 7 are never produced. -/
inductive EndCause where
  | noEnd
  | count
  | timeout
  | readError
  | decoded
deriving DecidableEq, Repr

/-- PKTINFO (R21): the header of the last decoded status packet. -/
structure PktInfo where
  id : Byte
  error : Byte
  count : Byte
deriving DecidableEq, Repr

/-- The active command record (R37): the kind of the active command and its operands. -/
inductive ActiveCmd where
  /-- CODEC_RECEIVE: expected ID, any-ID flag, expected byte count (the timeout hint). -/
  | codecReceive (x : Byte) (any : Bool) (nexp : Byte)
  /-- GSR_RX: expected byte count. -/
  | gsrRx (nexp : Nat)
deriving DecidableEq, Repr

/-- GSW.PHASE (R32). -/
inductive GswPhase where
  | empty
  | populated
  | transmitted
deriving DecidableEq, Repr

/-- GSR.PHASE (R35). -/
inductive GsrPhase where
  | empty
  | populated
  | txSent
  | rxPending
  | complete
  | partialFailure
deriving DecidableEq, Repr

/-- One ID of the GSW device table (R31): GSW.present[id] and GSW.slot[id]. A slot is written from its first byte on, so the
bytes of it that were written since reset are a list; the rest of its 255 bytes is unspecified. -/
structure GswDev where
  present : Bool
  slot : List Byte
deriving DecidableEq, Repr, Inhabited

/-- One ID of the GSR device table (R34): GSR.present, .slot, .valid, .idres and .iderr. -/
structure GsrDev where
  present : Bool
  slot : List Byte
  valid : Bool
  idres : ResultCode
  iderr : Byte
deriving DecidableEq, Repr

/-- The group-sync-write engine (R30 to R32, R36). -/
structure Gsw where
  start : Byte
  len : Byte
  devs : Vector GswDev Config.idSlots
  phase : GswPhase
  dirty : Bool
  flat : List Byte
deriving DecidableEq, Repr

/-- The group-sync-read engine (R33 to R36). -/
structure Gsr where
  start : Byte
  len : Byte
  devs : Vector GsrDev Config.idSlots
  phase : GsrPhase
  dirty : Bool
  lastOk : Bool
  flat : List Byte
deriving DecidableEq, Repr

/-- The transport (R40, R132), an agent outside the block: RXQ, the answers it will give to the next calls of TransportWrite
(draws, R11), and every call so far with its outcome, the oldest first. -/
structure Transport where
  rxq : List Byte
  answers : List WriteAnswer
  log : List (List Byte × WriteOutcome)
deriving DecidableEq, Repr

/-- What an agent outside the block does in one step (R5). The list of inputs is the total order of R52. -/
inductive Input where
  /-- The host reads `n` bytes at a window offset (R48). -/
  | read (off n : Nat)
  /-- The host writes the low `n` bytes of `v` at a window offset (R49). -/
  | write (off n : Nat) (v : Word)
  /-- The host's sequence `params ...; codec.encode id, instr, k` (R72) for a wire instruction, given as its packet. -/
  | packet (bytes : List Byte)
  /-- The bus appends a byte to RXQ (R40). -/
  | arrive (b : Byte)
  /-- The transport hands the front byte of RXQ to the active receive (R133). -/
  | deliver
  /-- The transport reports a read error to the active receive (R133). -/
  | readError
  /-- The receive timer expires (R133, R134). -/
  | timeout
  /-- The platform asserts reset (R140). -/
  | reset
deriving DecidableEq, Repr

/-- The machine's state. STATUS, GSWINFO, GSRINFO and the other registers are views of these fields (Flags.lean). -/
structure State where
  /-- STATUS.RESULT (R18). -/
  code : ResultCode
  /-- STATUS.BUSY (R18, R38). -/
  busy : Bool
  /-- STATUS.OWNER (R18, R38). -/
  owner : Owner
  /-- STATUS.OVERRUN (R18). -/
  overrun : Bool
  /-- STATUS.PKT_VALID (R18). -/
  pktValid : Bool
  /-- OPA (R19). -/
  opa : Word
  /-- RESULT (R20). -/
  result : Word
  /-- PKTINFO (R21). -/
  pktInfo : PktInfo
  /-- TXINFO.TX_LEN (R22). -/
  txLen : Byte
  /-- RXINFO.RX_COUNT (R23). -/
  rxCount : BitVec 16
  /-- RXINFO.END (R23). -/
  rxEnd : EndCause
  /-- PARAM_BUF, TX_BUF, PKT_BUF and RX_BUF (R26 to R29), keyed by window offset; see Memory.lean. -/
  mem : List Host.Cell
  /-- The group-sync-write engine. -/
  gsw : Gsw
  /-- The group-sync-read engine. -/
  gsr : Gsr
  /-- The active command record (R37); STATUS.ACTIVE is whether there is one. -/
  active : Option ActiveCmd
  /-- Whether the receive timer runs (R134). -/
  timer : Bool
  /-- The transport, outside the block. -/
  transport : Transport
  /-- The value the last host read returned (R48); the host's, not the block's. -/
  busData : Word
  /-- How often reset was asserted; it numbers the draws of the unspecified buffer bytes (R141). -/
  resets : Nat
  /-- What the agents outside the block do next. -/
  inputs : List Input
deriving DecidableEq, Repr

/-- Why a step stops with a fault. -/
inductive Fault where
  /-- An access that R46 does not allow, raised by a host read or write: the bus error of R47. It is the host's fault and the
  block's state is untouched. Safe: the machine stops where the host may go on. -/
  | busError (off n : Nat)
  /-- A host access at an offset beyond the window of 0x20000 bytes, raised by a host read or write: the address "is not the
  block's" (R42). Safe: the machine stops where the platform may go on. -/
  | outsideWindow (off : Nat)
deriving DecidableEq, Repr

/-- Why a step is refused. -/
inductive Refusal where
  /-- An instruction without a meaning, raised by `exec`. Safe: nothing is claimed of it. -/
  | notModelled (mnemonic : String)
  /-- The host's packet input holds bytes that are no wire instruction of R64, raised by a packet input. Safe: the input is the
  model's own shorthand for host accesses, and CODEC_ENCODE frames any ID and INSTR byte. -/
  | notAnInstructionPacket
deriving DecidableEq, Repr

/-- An ID of the GSW table at reset (R31). -/
def GswDev.reset : GswDev := { present := false, slot := [] }

/-- An ID of the GSR table at reset (R34). -/
def GsrDev.reset : GsrDev :=
  { present := false, slot := [], valid := false, idres := .notAvailable, iderr := 0 }

/-- The machine right after reset: the values of R141. No buffer byte is listed, so each reads as the draw of the reset
(assumption log 1). The transport, the host's data and the inputs are not the block's; they start empty (logs 3, 4, 6). -/
def State.reset : State where
  code := .success
  busy := false
  owner := .nobody
  overrun := false
  pktValid := false
  opa := 0
  result := 0
  pktInfo := { id := 0, error := 0, count := 0 }
  txLen := 0
  rxCount := 0
  rxEnd := .noEnd
  mem := []
  gsw := { start := 0, len := 0, devs := Vector.replicate Config.idSlots GswDev.reset, phase := .empty,
           dirty := true, flat := [] }
  gsr := { start := 0, len := 0, devs := Vector.replicate Config.idSlots GsrDev.reset, phase := .empty,
           dirty := true, lastOk := false, flat := [] }
  active := none
  timer := false
  transport := { rxq := [], answers := [], log := [] }
  busData := 0
  resets := 0
  inputs := []

end Sys2Proof.Machine
end

