-- ==== Sys2Proof/Machine/Memory.lean ====
section
/-! DEFINITION. The buffers' memory: a list of (window offset, byte) entries in one canonical form, the offsets strictly
rising. An offset that is not listed holds no written byte: nothing has written it since reset, and it reads as the free value
its reset drew (R48, R141; assumption log 1). A written byte stays listed, so no entry ever equals what an unlisted offset
holds, and equal memories are equal lists. -/

namespace Sys2Proof.Machine

/-- The written byte at an offset, if there is one. -/
def Memory.lookup (a : Nat) : List Host.Cell → Option Byte
  | [] => none
  | (b, w) :: m => if a = b then some w else Memory.lookup a m

/-- The memory with one byte written. -/
def Memory.store (a : Nat) (v : Byte) : List Host.Cell → List Host.Cell
  | [] => [(a, v)]
  | (b, w) :: m =>
    if a < b then (a, v) :: (b, w) :: m
    else if a = b then (a, v) :: m
    else (b, w) :: Memory.store a v m

/-- The memory with bytes written from an offset up. -/
def Memory.storeAll (a : Nat) : List Byte → List Host.Cell → List Host.Cell
  | [], m => m
  | v :: vs, m => Memory.storeAll (a + 1) vs (Memory.store a v m)

/-- Whether every listed offset is above `a` and the offsets rise strictly. -/
def Memory.above (a : Nat) : List Host.Cell → Bool
  | [] => true
  | (b, _) :: m => decide (a < b) && Memory.above b m

/-- The canonical form: the listed offsets rise strictly. -/
def Memory.wf : List Host.Cell → Bool
  | [] => true
  | (b, _) :: m => Memory.above b m

end Sys2Proof.Machine
end

