-- ==== Sys2Proof/Machine/Ops.lean ====
section
/-! DEFINITION. The named operations every meaning is built from: the end of a command (R11 `finish`, which plays the part of
taking an exception; the block has no traps and no return from one, R122, R136), the guard (R129, R130), the drop (R127), the
buffers (R26 to R29), the transport (R132), the start and end of a receive (R86, R87, R114, R117), and reset (R140). -/

namespace Sys2Proof.Machine

/-! ### Ending and dropping a command -/

/-- `finish(code)` (R11): STATUS.RESULT <- code, STATUS.ACTIVE <- 0 (no command is active any more), and no other change. -/
def finish (c : ResultCode) (s : State) : State := { s with code := c, active := none }

/-- `Drop()` (R127): OVERRUN is set and no other state changes. -/
def dropCommand (s : State) : State := { s with overrun := true }

/-- A write of RESULT followed by `finish` (R20, R11). -/
def finishWith (r : Word) (c : ResultCode) (s : State) : State := finish c { s with result := r }

/-! ### The guard -/

/-- `Acquire(o)` (R129). -/
def acquire (o : Owner) (s : State) : State := { s with busy := true, owner := o }

/-- `Release()` (R130). -/
def release (s : State) : State := { s with busy := false, owner := .nobody }

/-! ### The buffers -/

/-- Offset of PARAM_BUF (R26). -/
abbrev paramBase : Nat := 0x100

/-- Offset of TX_BUF (R27). -/
abbrev txBase : Nat := 0x200

/-- Offset of PKT_BUF (R28). -/
abbrev pktBase : Nat := 0x300

/-- Offset of RX_BUF (R29). -/
abbrev rxBase : Nat := 0x10000

/-- The content of the buffer byte at a window offset (R48): the byte last written there, or the draw of the last reset. -/
def byteOf (s : State) (off : Nat) : Byte :=
  (Memory.lookup off s.mem).getD (Config.resetByte s.resets off)

/-- The contents of `n` buffer bytes from an offset up. -/
def bytesOf (s : State) (off n : Nat) : List Byte := (List.range n).map (fun i => byteOf s (off + i))

/-- Buffer bytes written from an offset up. -/
def storeBytes (off : Nat) (bs : List Byte) (s : State) : State :=
  { s with mem := Memory.storeAll off bs s.mem }

/-- A frame built into TX_BUF with its length in TX_LEN (R27, R84). -/
def loadFrame (f : List Byte) (s : State) : State :=
  { storeBytes txBase f s with txLen := BitVec.ofNat 8 f.length }

/-- TX_LEN cleared, the bytes of TX_BUF kept: no frame was built (R84, D49). -/
def clearFrame (s : State) : State := { s with txLen := 0 }

/-- The frame TX_BUF holds: TX_BUF[0..TX_LEN-1] (R27). -/
def txFrame (s : State) : List Byte := bytesOf s txBase s.txLen.toNat

/-- RX_BUF[0..RX_COUNT-1] (R29). -/
def rxBytes (s : State) : List Byte := bytesOf s rxBase s.rxCount.toNat

/-- RX_BUF[RX_COUNT] <- v; RX_COUNT <- RX_COUNT + 1 (R87, R115). -/
def appendRx (v : Byte) (s : State) : State :=
  { storeBytes (rxBase + s.rxCount.toNat) [v] s with rxCount := s.rxCount + 1 }

/-- The bytes from index `c` on moved to the front of RX_BUF, and RX_COUNT less by `c` (R87). -/
def compactRx (c : Nat) (s : State) : State :=
  { storeBytes rxBase ((rxBytes s).drop c) s with rxCount := BitVec.ofNat 16 (s.rxCount.toNat - c) }

/-- A decoded packet put into PKTINFO and PKT_BUF, with PKT_VALID set (R87, R89). -/
def putPacket (p : Packet) (s : State) : State :=
  { storeBytes pktBase p.params s with
    pktInfo := { id := p.id, error := p.error, count := BitVec.ofNat 8 p.params.length }, pktValid := true }

/-! ### The transport -/

/-- `TransportFlush()` (R11, R132): RXQ is emptied. -/
def flushInput (s : State) : State := { s with transport := { s.transport with rxq := [] } }

/-- The transport's answer to the next TransportWrite (R11): the next draw listed, or else a free value. -/
def nextAnswer (s : State) : WriteAnswer :=
  s.transport.answers.headD (Config.writeAnswer s.transport.log.length)

/-- The outcome of an answer for a frame (R132): "A count equal to the frame length is Full, a smaller count is Short(c), and an
error is Error". -/
def outcomeOf (f : List Byte) : WriteAnswer → WriteOutcome
  | .count n => if f.length ≤ n then .full else .short n
  | .error => .error

/-- The outcome of the next `TransportWrite(f)` (R11). -/
def nextOutcome (f : List Byte) (s : State) : WriteOutcome := outcomeOf f (nextAnswer s)

/-- The state after `TransportWrite(f)`; its outcome is `nextOutcome f` of the state before. -/
def writeFrame (f : List Byte) (s : State) : State :=
  { s with transport :=
      { s.transport with
        answers := s.transport.answers.tail, log := s.transport.log ++ [(f, nextOutcome f s)] } }

/-- `Acquire(o); TransportFlush(); TransportWrite(f)` (R85, R105, R113). -/
def sendFrame (o : Owner) (f : List Byte) (s : State) : State :=
  writeFrame f (flushInput (acquire o s))

/-! ### Receives -/

/-- The end of a receive's launch (R86, R114): RX_COUNT is 0, the command is recorded, ACTIVE is 1, STATUS.RESULT reads
RxWaiting and the timer runs. -/
def startReceive (c : ActiveCmd) (s : State) : State :=
  { s with rxCount := 0, active := some c, code := .rxWaiting, timer := true }

/-- The end of a receive (R87 `End`, R117): RXINFO.END is written, the guard released, ACTIVE is 0, STATUS.RESULT is
written, and the timer stops (R133). -/
def endReceive (cause : EndCause) (c : ResultCode) (s : State) : State :=
  finish c { release s with rxEnd := cause, timer := false }

/-! ### Reset -/

/-- Reset (R140, R141): every piece of the block's state takes its reset value and the buffer bytes are drawn anew; the
transport, the host's data and the inputs are not the block's and stay. -/
def resetBlock (s : State) : State :=
  { State.reset with
    transport := s.transport, busData := s.busData, resets := s.resets + 1, inputs := s.inputs }

end Sys2Proof.Machine
end

