-- ==== Sys2Proof/Machine/Operands.lean ====
section
/-! DEFINITION. The operand forms of the commands: parameters in PARAM_BUF (R26), the operand register OPA (R19), and the
device tables' entries for an ID (R31, R34). -/

namespace Sys2Proof.Machine

/-- PARAM_BUF[0..n-1] (R84, R88, R89, R100, R102). -/
def paramBytes (s : State) (n : Byte) : List Byte := bytesOf s paramBase n.toNat

/-- PARAM_BUF[0..] <- the bytes, the pseudo-instruction `params` (R72); a byte past the buffer's 256 is not stored. -/
def storeParams (bs : List Byte) (s : State) : State :=
  storeBytes paramBase (bs.take Config.paramBufSize) s

/-- OPA[15:0], a u16 (R92, R93, R95); OPA[31:16] is ignored. -/
def opaHalf (s : State) : BitVec 16 := s.opa.extractLsb' 0 16

/-- OPA read as i32 (R96, R10). -/
def opaInt (s : State) : Int := s.opa.toInt

/-- Whether an ID is individually addressable, 0x00..0xFC (R62, R100). -/
def validId (id : Byte) : Bool := decide (id.toNat ≤ Config.maxDevId)

/-- The indices, counted from `k`, of the entries for which a test holds, ascending. -/
def indicesWhere {α : Type} (p : α → Bool) (k : Nat) : List α → List Nat
  | [] => []
  | a :: as => if p a then k :: indicesWhere p (k + 1) as else indicesWhere p (k + 1) as

/-- The GSW table's entry of an ID; the reset entry for an ID the table does not have. -/
def gswDevOf (g : Gsw) (id : Nat) : GswDev :=
  if h : id < Config.idSlots then g.devs[id] else GswDev.reset

/-- The GSW table with the entry of one ID replaced. -/
def putGswDev (id : Nat) (d : GswDev) (g : Gsw) : Gsw :=
  if h : id < Config.idSlots then { g with devs := g.devs.set id d } else g

/-- `A <= 0xFC and GSW.present[A] == 1` (R100 to R102). -/
def gswPresent (g : Gsw) (id : Byte) : Bool := validId id && (gswDevOf g id.toNat).present

/-- The present IDs of the GSW table, ascending (R104). -/
def gswIds (g : Gsw) : List Nat := indicesWhere GswDev.present 0 g.devs.toList

/-- GSWINFO.COUNT as a number (R24, R31). -/
def gswCount (g : Gsw) : Nat := (gswIds g).length

/-- The GSR table's entry of an ID; the reset entry for an ID the table does not have. -/
def gsrDevOf (g : Gsr) (id : Nat) : GsrDev :=
  if h : id < Config.idSlots then g.devs[id] else GsrDev.reset

/-- The GSR table with the entry of one ID replaced. -/
def putGsrDev (id : Nat) (d : GsrDev) (g : Gsr) : Gsr :=
  if h : id < Config.idSlots then { g with devs := g.devs.set id d } else g

/-- `A <= 0xFC and GSR.present[A] == 1` (R109, R110, R119, R121). -/
def gsrPresent (g : Gsr) (id : Byte) : Bool := validId id && (gsrDevOf g id.toNat).present

/-- The present IDs of the GSR table, ascending (R112). -/
def gsrIds (g : Gsr) : List Nat := indicesWhere GsrDev.present 0 g.devs.toList

/-- GSRINFO.COUNT as a number (R25, R34). -/
def gsrCount (g : Gsr) : Nat := (gsrIds g).length

/-- A function applied to every entry of a table, which it is given with its ID. -/
def mapEntries {α : Type} {n : Nat} (f : Nat → α → α) (v : Vector α n) : Vector α n :=
  ⟨(List.zipWith f (List.range n) v.toList).toArray, by simp⟩

/-- The bytes `slot[id][0..len-1]` (R104): what was written, or the unspecified content (assumption log 2). -/
def slotBytes (id : Nat) (slot : List Byte) (len : Nat) : List Byte :=
  (List.range len).map (fun j => slot.getD j (Config.slotByte id j))

/-- A slot with bytes written from its first byte on; the bytes after them stay. -/
def writeSlot (bs slot : List Byte) : List Byte := bs ++ slot.drop bs.length

end Sys2Proof.Machine
end

