-- ==== Sys2Proof/Machine/Flags.lean ====
section
/-! DEFINITION. The registers as the host reads them: the fields of the state packed into the bits of R17 to R25. Reserved bits
read 0. -/

namespace Sys2Proof.Machine

/-- The number of a result code (R123). -/
def codeByte : ResultCode → Byte
  | .success => 0
  | .portBusy => 1
  | .txFail => 2
  | .txError => 3
  | .rxFail => 4
  | .rxWaiting => 5
  | .rxTimeout => 6
  | .rxCorrupt => 7
  | .notAvailable => 8
  | .duplicateId => 9
  | .payloadTooLong => 10
  | .notFound => 11
  | .invalidId => 12
  | .badCommand => 13

/-- The bits of OWNER (R18). -/
def ownerBits : Owner → BitVec 2
  | .nobody => 0
  | .codec => 1
  | .gsr => 2

/-- The bits of RXINFO.END (R23). -/
def endBits : EndCause → BitVec 3
  | .noEnd => 0
  | .count => 1
  | .timeout => 2
  | .readError => 3
  | .decoded => 4

/-- The bits of GSWINFO.PHASE (R24). -/
def gswPhaseBits : GswPhase → BitVec 2
  | .empty => 0
  | .populated => 1
  | .transmitted => 2

/-- The bits of GSRINFO.PHASE (R25). -/
def gsrPhaseBits : GsrPhase → BitVec 3
  | .empty => 0
  | .populated => 1
  | .txSent => 2
  | .rxPending => 3
  | .complete => 4
  | .partialFailure => 5

/-- One flag as one bit. -/
def flagBit (b : Bool) : BitVec 1 := BitVec.ofBool b

/-- STATUS (R18). -/
def statusWord (s : State) : Word :=
  0#18 ++ flagBit s.pktValid ++ flagBit s.overrun ++ ownerBits s.owner ++ flagBit s.busy ++ flagBit s.active.isSome
    ++ codeByte s.code

/-- PKTINFO (R21). -/
def pktInfoWord (p : PktInfo) : Word := 0#8 ++ p.count ++ p.error ++ p.id

/-- TXINFO (R22). -/
def txInfoWord (s : State) : Word := 0#24 ++ s.txLen

/-- RXINFO (R23). -/
def rxInfoWord (s : State) : Word := 0#13 ++ endBits s.rxEnd ++ s.rxCount

/-- GSWINFO (R24). -/
def gswInfoWord (g : Gsw) : Word :=
  0#5 ++ flagBit g.dirty ++ gswPhaseBits g.phase ++ BitVec.ofNat 8 (gswCount g) ++ g.len ++ g.start

/-- GSRINFO (R25). -/
def gsrInfoWord (g : Gsr) : Word :=
  0#3 ++ flagBit g.lastOk ++ flagBit g.dirty ++ gsrPhaseBits g.phase ++ BitVec.ofNat 8 (gsrCount g) ++ g.len ++ g.start

/-- The read value of the register at a window offset (R16 to R25): CMD and the reserved offsets read 0. -/
def regWord (s : State) (off : Nat) : Word :=
  match off with
  | 0x004 => statusWord s
  | 0x008 => s.opa
  | 0x00C => s.result
  | 0x010 => pktInfoWord s.pktInfo
  | 0x014 => txInfoWord s
  | 0x018 => rxInfoWord s
  | 0x01C => gswInfoWord s.gsw
  | 0x020 => gsrInfoWord s.gsr
  | _ => 0

end Sys2Proof.Machine
end

