-- ==== Sys2Proof/Machine/GroupWrite.lean ====
section
/-! DEFINITION. The group-sync-write engine (R98 to R106). -/

namespace Sys2Proof.Machine

/-- Every present bit cleared, DIRTY set, PHASE Empty (R99, R103). -/
def emptyGsw (g : Gsw) : Gsw :=
  { g with devs := mapEntries (fun _ d => { d with present := false }) g.devs, dirty := true, phase := .empty }

/-- GSW_INIT (R99). -/
def execGswInit (start len : Byte) (s : State) : Host.Outcome State Fault Refusal :=
  .next (finish .success { s with gsw := { emptyGsw s.gsw with start := start, len := len, flat := [] } })

/-- A payload padded with zero bytes to the group's length (R100, R102). -/
def padPayload (len : Byte) (p : List Byte) : List Byte := p ++ List.replicate (len.toNat - p.length) 0

/-- The payload stored in the slot of an ID, which is present from then on; DIRTY set, PHASE Populated (R100, R102). -/
def storePayload (id : Byte) (p : List Byte) (g : Gsw) : Gsw :=
  { putGswDev id.toNat
      { present := true, slot := writeSlot (padPayload g.len p) (gswDevOf g id.toNat).slot } g with
    dirty := true, phase := .populated }

/-- GSW_ADD (R100): InvalidId, DuplicateId, PayloadTooLong (R128). -/
def execGswAdd (id n : Byte) (s : State) : Host.Outcome State Fault Refusal :=
  .next <|
    if validId id = false then finish .invalidId s
    else if gswPresent s.gsw id then finish .duplicateId s
    else if n.toNat > s.gsw.len.toNat then finish .payloadTooLong s
    else finish .success { s with gsw := storePayload id (paramBytes s n) s.gsw }

/-- The table with one ID removed (R101). -/
def removeGsw (id : Byte) (g : Gsw) : Gsw :=
  let h := putGswDev id.toNat { gswDevOf g id.toNat with present := false } g
  { h with dirty := true, phase := if gswCount h = 0 then .empty else .populated }

/-- GSW_REMOVE (R101). -/
def execGswRemove (id : Byte) (s : State) : Host.Outcome State Fault Refusal :=
  .next <|
    if gswPresent s.gsw id = false then finish .notFound s
    else finish .success { s with gsw := removeGsw id s.gsw }

/-- GSW_CHANGE (R102): NotFound, PayloadTooLong (R128). -/
def execGswChange (id n : Byte) (s : State) : Host.Outcome State Fault Refusal :=
  .next <|
    if gswPresent s.gsw id = false then finish .notFound s
    else if n.toNat > s.gsw.len.toNat then finish .payloadTooLong s
    else finish .success { s with gsw := storePayload id (paramBytes s n) s.gsw }

/-- GSW_CLEAR (R103): START, L and FLAT stay. -/
def execGswClear (s : State) : Host.Outcome State Fault Refusal :=
  .next (finish .success { s with gsw := emptyGsw s.gsw })

/-- What a rebuild gives (R104): `[id] ++ slot[id][0..L-1]` for the present IDs, ascending. -/
def gswFlatten (g : Gsw) : List Byte :=
  (gswIds g).flatMap (fun i => BitVec.ofNat 8 i :: slotBytes i (gswDevOf g i).slot g.len.toNat)

/-- Flatten_GSW where DIRTY is set (R104, R105). -/
def rebuildGsw (g : Gsw) : Gsw :=
  if g.dirty then { g with flat := gswFlatten g, dirty := false } else g

/-- The SyncWrite frame of an engine (R105): TooLong is `none`. -/
def gswFrame (g : Gsw) : Option (List Byte) :=
  buildFrame Config.broadcastId 0x83 (g.start :: g.len :: g.flat)

/-- R105, once the table is not empty and the guard is free. -/
def transmitGsw (s : State) : State :=
  let t := { s with gsw := rebuildGsw s.gsw }
  match gswFrame t.gsw with
  | none => finish .txError (clearFrame t)
  | some f =>
    let u := release (sendFrame .codec f (loadFrame f t))
    if nextOutcome f s ≠ .full then finish .txFail u
    else finish .success { u with gsw := { u.gsw with phase := .transmitted } }

/-- GSW_TRANSMIT (R105): NotAvailable, PortBusy, TxError, TxFail (R128). -/
def execGswTransmit (s : State) : Host.Outcome State Fault Refusal :=
  .next <|
    if gswCount s.gsw = 0 then finish .notAvailable s
    else if s.busy then finish .portBusy s
    else transmitGsw s

end Sys2Proof.Machine
end

