-- ==== Sys2Proof/Machine/Codec.lean ====
section
/-! DEFINITION. The packet codec's commands: CODEC_ENCODE, CODEC_TRANSMIT, CODEC_RECEIVE (its launch; its later steps are in
Receive.lean), CODEC_CHECKSUM and CODEC_SCAN (R84 to R89). -/

namespace Sys2Proof.Machine

/-- A frame built from an ID, an INSTR byte and parameters into TX_BUF (R84): TxError and TX_LEN 0 where it is too long. -/
def encodeFrame (id instr : Byte) (p : List Byte) (s : State) : State :=
  match buildFrame id instr p with
  | none => finish .txError (clearFrame s)
  | some f => finish .success (loadFrame f s)

/-- CODEC_ENCODE (R84). -/
def execCodecEncode (id instr k : Byte) (s : State) : Host.Outcome State Fault Refusal :=
  .next (encodeFrame id instr (paramBytes s k) s)

/-- R85, after its two checks: the frame is sent under the guard, which is kept where a reply is expected. -/
def transmitFrame (expect : Bool) (s : State) : State :=
  let t := sendFrame .codec (txFrame s) s
  if nextOutcome (txFrame s) s ≠ .full then finish .txFail (release t)
  else if expect then finish .success t
  else finish .success (release t)

/-- CODEC_TRANSMIT (R85): PortBusy, then TxError, then TxFail (R128). -/
def execCodecTransmit (expect : Bool) (s : State) : Host.Outcome State Fault Refusal :=
  .next <|
    if s.busy then finish .portBusy s
    else if s.txLen = 0 then finish .txError s
    else transmitFrame expect s

/-- CODEC_RECEIVE, the launching step (R86): a receive with the guard free takes it; PKT_VALID is cleared. -/
def execCodecReceive (id : Byte) (any : Bool) (nexp : Byte) (s : State) : Host.Outcome State Fault Refusal :=
  .next <|
    if s.owner = .gsr then finish .portBusy s
    else
      let t := if s.busy then s else acquire .codec s
      startReceive (.codecReceive id any nexp) { t with pktValid := false }

/-- CODEC_CHECKSUM (R88). -/
def execCodecChecksum (n : Byte) (s : State) : Host.Outcome State Fault Refusal :=
  .next (finishWith ((checksum (paramBytes s n)).zeroExtend 32) .success s)

/-- The RESULT of CODEC_SCAN (R89): the consumed count in bits 15:0, the candidate's position or 0xFFFF in bits 31:16. -/
def scanWord (r : ScanResult) : Word :=
  BitVec.ofNat 16 ((scanPosition r).getD 0xFFFF) ++ BitVec.ofNat 16 (scanConsumed r)

/-- The result code of a scan (R81, R89). -/
def scanCode : ScanResult → ResultCode
  | .packet _ _ => .success
  | .failed _ => .rxCorrupt
  | .incomplete _ => .rxWaiting
  | .noHeader _ => .rxWaiting

/-- CODEC_SCAN (R89). -/
def execCodecScan (id : Byte) (any : Bool) (n : Byte) (s : State) : Host.Outcome State Fault Refusal :=
  let r := scan (paramBytes s n) any id
  .next <| finishWith (scanWord r) (scanCode r) <|
    match r with
    | .packet _ p => putPacket p s
    | _ => { s with pktValid := false }

end Sys2Proof.Machine
end

