-- ==== Sys2Proof/Machine/GroupRead.lean ====
section
/-! DEFINITION. The group-sync-read engine (R107 to R121): its commands, with the launch of GSR_RX, and the demultiplexer that
ends GSR_RX. The later steps of GSR_RX are in Receive.lean. -/

namespace Sys2Proof.Machine

/-- GSR_INIT (R108): PortBusy in phase TxSent. -/
def execGsrInit (start len : Byte) (s : State) : Host.Outcome State Fault Refusal :=
  .next <|
    if s.gsr.phase = .txSent then finish .portBusy s
    else finish .success { s with gsr :=
      { start := start, len := len,
        devs := mapEntries
          (fun _ d => { d with present := false, valid := false, idres := .notAvailable, iderr := 0 }) s.gsr.devs,
        phase := .empty, dirty := true, lastOk := false, flat := [] } }

/-- The set with one ID added, its slot zeroed (R109). -/
def addGsr (id : Byte) (g : Gsr) : Gsr :=
  { putGsrDev id.toNat
      { present := true,
        slot := writeSlot (List.replicate g.len.toNat 0) (gsrDevOf g id.toNat).slot,
        valid := false, idres := .notAvailable, iderr := 0 } g with
    dirty := true, phase := .populated }

/-- GSR_ADD (R109): PortBusy in phase TxSent, InvalidId, DuplicateId (R128). -/
def execGsrAdd (id : Byte) (s : State) : Host.Outcome State Fault Refusal :=
  .next <|
    if s.gsr.phase = .txSent then finish .portBusy s
    else if validId id = false then finish .invalidId s
    else if gsrPresent s.gsr id then finish .duplicateId s
    else finish .success { s with gsr := addGsr id s.gsr }

/-- The set with one ID removed (R110). -/
def removeGsr (id : Byte) (g : Gsr) : Gsr :=
  let h := putGsrDev id.toNat { gsrDevOf g id.toNat with present := false, valid := false } g
  { h with dirty := true, phase := if gsrCount h = 0 then .empty else .populated }

/-- GSR_REMOVE (R110): PortBusy in phase TxSent, NotFound (R128). -/
def execGsrRemove (id : Byte) (s : State) : Host.Outcome State Fault Refusal :=
  .next <|
    if s.gsr.phase = .txSent then finish .portBusy s
    else if gsrPresent s.gsr id = false then finish .notFound s
    else finish .success { s with gsr := removeGsr id s.gsr }

/-- GSR_CLEAR (R111): START, L and LAST_OK stay. -/
def execGsrClear (s : State) : Host.Outcome State Fault Refusal :=
  .next <|
    if s.gsr.phase = .txSent then finish .portBusy s
    else finish .success { s with gsr :=
      { s.gsr with
        devs := mapEntries (fun _ d => { d with present := false, valid := false }) s.gsr.devs,
        dirty := true, phase := .empty } }

/-- What a rebuild gives (R112): the present IDs, ascending. -/
def gsrFlatten (g : Gsr) : List Byte := (gsrIds g).map (fun i => BitVec.ofNat 8 i)

/-- Flatten_GSR where DIRTY is set (R112, R113). -/
def rebuildGsr (g : Gsr) : Gsr :=
  if g.dirty then { g with flat := gsrFlatten g, dirty := false } else g

/-- The SyncRead frame of an engine (R113): TooLong is `none`. -/
def gsrFrame (g : Gsr) : Option (List Byte) :=
  buildFrame Config.broadcastId 0x82 (g.start :: g.len :: g.flat)

/-- COUNT * (L + 6), the size of all replies: one status frame of L parameters for each ID (R113, R114). -/
def gsrExpected (g : Gsr) : Nat := gsrCount g * (g.len.toNat + 6)

/-- A request is out (R113): valid cleared and idres NotAvailable for the present IDs, PHASE TxSent. -/
def markRequested (g : Gsr) : Gsr :=
  { g with
    devs := mapEntries (fun _ d => if d.present then { d with valid := false, idres := .notAvailable } else d) g.devs,
    phase := .txSent }

/-- R113, once the set is not empty and the guard is free. -/
def requestGsr (s : State) : State :=
  let t := { s with gsr := rebuildGsr s.gsr }
  match gsrFrame t.gsr with
  | none => finish .txError (clearFrame t)
  | some f =>
    if Config.fitsRxCap (gsrExpected t.gsr) = false then finish .txError (clearFrame t)
    else
      let u := sendFrame .gsr f (loadFrame f t)
      if nextOutcome f s ≠ .full then finish .txFail (release u)
      else finish .success { u with gsr := markRequested u.gsr }

/-- GSR_TXREQ (R113): NotAvailable, PortBusy, TxError, TxFail (R128). -/
def execGsrTxreq (s : State) : Host.Outcome State Fault Refusal :=
  .next <|
    if gsrCount s.gsr = 0 then finish .notAvailable s
    else if s.busy then finish .portBusy s
    else requestGsr s

/-- GSR_RX, the launching step (R114): NotAvailable unless a request is outstanding. -/
def execGsrRx (s : State) : Host.Outcome State Fault Refusal :=
  .next <|
    if s.gsr.phase ≠ .txSent then finish .notAvailable s
    else startReceive (.gsrRx (gsrExpected s.gsr)) { s with gsr := { s.gsr with phase := .rxPending } }

/-! ### The demultiplexer -/

/-- The code of an ID no frame was found for (R116, D30): by the end cause where no candidate failed. -/
def missingCode : EndCause → ResultCode
  | .timeout => .rxTimeout
  | .readError => .rxFail
  | _ => .rxCorrupt

/-- DemuxOne's loop (R116) on the bytes from its index on. Each pass moves the index on by at least one byte, so the length
of the bytes bounds the passes. -/
def demuxLoop (x len : Byte) (cause : EndCause) : Nat → Bool → List Byte → Except ResultCode Packet
  | 0, failed, _ => .error (if failed then .rxCorrupt else missingCode cause)
  | n + 1, failed, b =>
    match scan b false x with
    | .packet h p => if p.params.length = len.toNat then .ok p else demuxLoop x len cause n true (b.drop (h + 1))
    | .failed h => demuxLoop x len cause n true (b.drop (h + 1))
    | .incomplete _ => .error (if failed then .rxCorrupt else missingCode cause)
    | .noHeader _ => .error (if failed then .rxCorrupt else missingCode cause)

/-- DemuxOne (R116): the frame of one ID in the collected bytes, or the code of its absence. -/
def demuxOne (b : List Byte) (x len : Byte) (cause : EndCause) : Except ResultCode Packet :=
  demuxLoop x len cause (b.length + 1) false b

/-- What Demux writes for one ID (R117). A failing ID keeps its slot bytes and its iderr. -/
def demuxEntry (b : List Byte) (len : Byte) (cause : EndCause) (id : Nat) (d : GsrDev) : GsrDev :=
  if d.present then
    match demuxOne b (BitVec.ofNat 8 id) len cause with
    | .ok p => { d with slot := writeSlot p.params d.slot, valid := true, idres := .success, iderr := p.error }
    | .error c => { d with valid := false, idres := c }
  else d

/-- The overall code (R117): Success, or the code of the failing ID visited last. -/
def demuxOverall (b : List Byte) (len : Byte) (cause : EndCause) (ids : List Nat) : ResultCode :=
  ids.foldl (fun overall id =>
    match demuxOne b (BitVec.ofNat 8 id) len cause with
    | .ok _ => overall
    | .error c => c) .success

/-- Demux, the end of GSR_RX (R117). -/
def demux (cause : EndCause) (s : State) : State :=
  let b := rxBytes s
  let overall := demuxOverall b s.gsr.len cause (gsrIds s.gsr)
  endReceive cause overall { s with gsr :=
    { s.gsr with
      devs := mapEntries (demuxEntry b s.gsr.len cause) s.gsr.devs,
      lastOk := decide (overall = .success),
      phase := if overall = .success then .complete else .partialFailure } }

/-! ### Queries -/

/-- The test of R119, in unbounded integers. -/
def gsrAvailable (g : Gsr) (id address length : Byte) : Bool :=
  gsrPresent g id && (gsrDevOf g id.toNat).valid && decide (1 ≤ length.toNat)
    && decide (g.start.toNat ≤ address.toNat)
    && decide (address.toNat + length.toNat ≤ g.start.toNat + g.len.toNat)

/-- GSR_IS_AVAILABLE (R119). -/
def execGsrIsAvailable (id address length : Byte) (s : State) : Host.Outcome State Fault Refusal :=
  .next (finishWith (if gsrAvailable s.gsr id address length then 1 else 0) .success s)

/-- The byte of a slot (R120); an unwritten one is unspecified (assumption log 2). -/
def slotByteOf (id : Nat) (slot : List Byte) (j : Nat) : Byte := slot.getD j (Config.slotByte id j)

/-- GSR_GET_VALUE (R120): the length is 1. -/
def execGsrGetValue (id address : Byte) (s : State) : Host.Outcome State Fault Refusal :=
  .next <|
    if gsrAvailable s.gsr id address 1 then
      finishWith
        ((slotByteOf id.toNat (gsrDevOf s.gsr id.toNat).slot (address.toNat - s.gsr.start.toNat)).zeroExtend 32)
        .success s
    else finishWith 0 .notAvailable s

/-- The RESULT of GSR_ID_RESULT (R121): idres | iderr << 8 | valid << 16. -/
def idResultWord (d : GsrDev) : Word := 0#15 ++ flagBit d.valid ++ d.iderr ++ codeByte d.idres

/-- GSR_ID_RESULT (R121). -/
def execGsrIdResult (id : Byte) (s : State) : Host.Outcome State Fault Refusal :=
  .next <|
    if gsrPresent s.gsr id = false then finishWith 0 .notFound s
    else finishWith (idResultWord (gsrDevOf s.gsr id.toNat)) .success s

end Sys2Proof.Machine
end

