-- ==== Sys2Proof/Machine/Receive.lean ====
section
/-! DEFINITION. The later steps of the two multi-step commands: what one event does to an active receive (R87, R115, R133). -/

namespace Sys2Proof.Machine

/-- `Byte(v)` delivered to an active CODEC_RECEIVE (R87). -/
def codecByte (x : Byte) (any : Bool) (v : Byte) (s : State) : State :=
  let t := appendRx v s
  match scan (rxBytes t) any x with
  | .packet _ p => endReceive .decoded .success (putPacket p t)
  | .failed _ => endReceive .decoded .rxCorrupt t
  | .incomplete h => compactRx h t
  | .noHeader n => compactRx n t

/-- `Byte(v)` delivered to an active GSR_RX (R115). -/
def gsrByte (nexp : Nat) (v : Byte) (s : State) : State :=
  let t := appendRx v s
  if t.rxCount.toNat = nexp then demux .count t else t

/-- `Byte(v)` (R133). No event is delivered while no receive is active. -/
def receiveByte (v : Byte) (s : State) : State :=
  match s.active with
  | none => s
  | some (.codecReceive x any _) => codecByte x any v s
  | some (.gsrRx nexp) => gsrByte nexp v s

/-- `ReadError` (R133). -/
def receiveError (s : State) : State :=
  match s.active with
  | none => s
  | some (.codecReceive _ _ _) => endReceive .readError .rxFail s
  | some (.gsrRx _) => demux .readError s

/-- `Timeout` (R133), possible while the timer runs (R134). -/
def receiveTimeout (s : State) : State :=
  if s.timer then
    match s.active with
    | none => s
    | some (.codecReceive _ _ _) => endReceive .timeout .rxTimeout s
    | some (.gsrRx _) => demux .timeout s
  else s

/-- The transport hands the front byte of RXQ to the active receive (R133); while none is active, or RXQ is empty, nothing is
delivered. -/
def deliverByte (s : State) : State :=
  match s.active, s.transport.rxq with
  | some _, b :: q => receiveByte b { s with transport := { s.transport with rxq := q } }
  | _, _ => s

/-- The bus appends a byte to RXQ (R40). -/
def arriveByte (b : Byte) (s : State) : State :=
  { s with transport := { s.transport with rxq := s.transport.rxq ++ [b] } }

end Sys2Proof.Machine
end

