-- ==== Sys2Proof/Machine/Wire.lean ====
section
/-! DEFINITION. The wire instructions (R74 to R80). "The block gives it no meaning beyond framing": each is built by
`params p_0, p_1, ...; codec.encode id, instr, k`, which puts its parameters into PARAM_BUF and its frame into TX_BUF. Sending the
frame is CODEC_TRANSMIT's own step, with the EXPECT the host chooses (assumption log 3). -/

namespace Sys2Proof.Machine

/-- The parameters stored in PARAM_BUF and the frame built from them (R72, R84). -/
def frameInstr (id instr : Byte) (p : List Byte) (s : State) : Host.Outcome State Fault Refusal :=
  .next (encodeFrame id instr p (storeParams p s))

/-- PING (R74). -/
def execPing (id : Byte) (s : State) : Host.Outcome State Fault Refusal :=
  frameInstr id 0x01 [] s

/-- READ (R75). -/
def execRead (id address length : Byte) (s : State) : Host.Outcome State Fault Refusal :=
  frameInstr id 0x02 [address, length] s

/-- WRITE (R76). -/
def execWrite (id address : Byte) (data : List Byte) (s : State) : Host.Outcome State Fault Refusal :=
  frameInstr id 0x03 (address :: data) s

/-- REGWRITE (R77). -/
def execRegwrite (id address : Byte) (data : List Byte) (s : State) : Host.Outcome State Fault Refusal :=
  frameInstr id 0x04 (address :: data) s

/-- ACTION (R78). -/
def execAction (id : Byte) (s : State) : Host.Outcome State Fault Refusal :=
  frameInstr id 0x05 [] s

/-- SYNCREAD (R79), built from host parameters; "the GSR engine then takes no part". -/
def execSyncread (start len : Byte) (ids : List Byte) (s : State) : Host.Outcome State Fault Refusal :=
  frameInstr Config.broadcastId 0x82 (start :: len :: ids) s

/-- SYNCWRITE (R80), built from host parameters; the GSW engine then takes no part. -/
def execSyncwrite (start len : Byte) (records : List (Byte × List Byte)) (s : State) :
    Host.Outcome State Fault Refusal :=
  frameInstr Config.broadcastId 0x83 (start :: len :: records.flatMap (fun r => r.1 :: r.2)) s

end Sys2Proof.Machine
end

