-- ==== Sys2Proof/Machine/WordCodec.lean ====
section
/-! DEFINITION. The word codec's commands (R90 to R97): each writes RESULT and STATUS.RESULT and nothing else. -/

namespace Sys2Proof.Machine

/-- `make_word` (R91): the byte at the lower address and the byte at the next one combined by endian mode. -/
def makeWord (b0 b1 : Byte) : Endian → BitVec 16
  | .small => b1 ++ b0
  | .big => b0 ++ b1

/-- `lobyte` (R92): the byte of a u16 at the lower address. -/
def loByte (w : BitVec 16) : Endian → Byte
  | .small => w.extractLsb' 0 8
  | .big => w.extractLsb' 8 8

/-- `hibyte` (R93): the byte of a u16 at the next address. -/
def hiByte (w : BitVec 16) : Endian → Byte
  | .small => w.extractLsb' 8 8
  | .big => w.extractLsb' 0 8

/-- `to_host` (R95): -(v & ~(1 << s)) where bit s of v is set, else v. Bits of v above s are kept. -/
def toHost (v : BitVec 16) (s : Nat) : Int :=
  if v.getLsbD s then -((v &&& ~~~(1#16 <<< s)).toNat : Int) else (v.toNat : Int)

/-- `to_device` (R96): the magnitude of a negative value, wrapped to 32 bits, with bit s set; other values unchanged. -/
def toDevice (v : Int) (s : Nat) : Word :=
  if v < 0 then BitVec.ofInt 32 (-v) ||| (1#32 <<< s) else BitVec.ofInt 32 v

/-- WORD_MAKE (R91). -/
def execWordMake (b0 b1 : Byte) (e : Endian) (s : State) : Host.Outcome State Fault Refusal :=
  .next (finishWith ((makeWord b0 b1 e).zeroExtend 32) .success s)

/-- WORD_LOBYTE (R92). -/
def execWordLobyte (e : Endian) (s : State) : Host.Outcome State Fault Refusal :=
  .next (finishWith ((loByte (opaHalf s) e).zeroExtend 32) .success s)

/-- WORD_HIBYTE (R93). -/
def execWordHibyte (e : Endian) (s : State) : Host.Outcome State Fault Refusal :=
  .next (finishWith ((hiByte (opaHalf s) e).zeroExtend 32) .success s)

/-- SIGN_TO_HOST (R95). -/
def execSignToHost (i : BitVec 4) (s : State) : Host.Outcome State Fault Refusal :=
  .next (finishWith (BitVec.ofInt 32 (toHost (opaHalf s) i.toNat)) .success s)

/-- SIGN_TO_DEVICE (R96). -/
def execSignToDevice (i : BitVec 4) (s : State) : Host.Outcome State Fault Refusal :=
  .next (finishWith (toDevice (opaInt s) i.toNat) .success s)

end Sys2Proof.Machine
end

