-- ==== Sys2Proof/Machine/Dispatch.lean ====
section
/-! DEFINITION. The meaning of each instruction. -/

namespace Sys2Proof.Machine

def exec (i : Instr) (s : State) : Host.Outcome State Fault Refusal :=
  match i with
  | .ping id => Sys2Proof.Machine.execPing id s
  | .read id address length => Sys2Proof.Machine.execRead id address length s
  | .write id address data => Sys2Proof.Machine.execWrite id address data s
  | .regwrite id address data => Sys2Proof.Machine.execRegwrite id address data s
  | .action id => Sys2Proof.Machine.execAction id s
  | .syncread start len ids => Sys2Proof.Machine.execSyncread start len ids s
  | .syncwrite start len records => Sys2Proof.Machine.execSyncwrite start len records s
  | .codecEncode id instr k => Sys2Proof.Machine.execCodecEncode id instr k s
  | .codecTransmit expect => Sys2Proof.Machine.execCodecTransmit expect s
  | .codecReceive id any nexp => Sys2Proof.Machine.execCodecReceive id any nexp s
  | .codecChecksum n => Sys2Proof.Machine.execCodecChecksum n s
  | .codecScan id any n => Sys2Proof.Machine.execCodecScan id any n s
  | .wordMake b0 b1 e => Sys2Proof.Machine.execWordMake b0 b1 e s
  | .wordLobyte e => Sys2Proof.Machine.execWordLobyte e s
  | .wordHibyte e => Sys2Proof.Machine.execWordHibyte e s
  | .signToHost x => Sys2Proof.Machine.execSignToHost x s
  | .signToDevice x => Sys2Proof.Machine.execSignToDevice x s
  | .gswInit start len => Sys2Proof.Machine.execGswInit start len s
  | .gswAdd id n => Sys2Proof.Machine.execGswAdd id n s
  | .gswRemove id => Sys2Proof.Machine.execGswRemove id s
  | .gswChange id n => Sys2Proof.Machine.execGswChange id n s
  | .gswClear => Sys2Proof.Machine.execGswClear s
  | .gswTransmit => Sys2Proof.Machine.execGswTransmit s
  | .gsrInit start len => Sys2Proof.Machine.execGsrInit start len s
  | .gsrAdd id => Sys2Proof.Machine.execGsrAdd id s
  | .gsrRemove id => Sys2Proof.Machine.execGsrRemove id s
  | .gsrClear => Sys2Proof.Machine.execGsrClear s
  | .gsrTxreq => Sys2Proof.Machine.execGsrTxreq s
  | .gsrRx => Sys2Proof.Machine.execGsrRx s
  | .gsrIsAvailable id address length => Sys2Proof.Machine.execGsrIsAvailable id address length s
  | .gsrGetValue id address => Sys2Proof.Machine.execGsrGetValue id address s
  | .gsrIdResult id => Sys2Proof.Machine.execGsrIdResult id s

end Sys2Proof.Machine
end

