-- ==== Sys2Proof/Machine/Window.lean ====
section
/-! DEFINITION. The register window (R16, R41 to R49): which part of it an offset lies in, which accesses are legal, what a read
returns, and what a write does except for a write to CMD, which launches a command (Launch.lean). -/

namespace Sys2Proof.Machine

/-- The parts of the window (R16). -/
inductive Area where
  | registers
  | paramBuf
  | txBuf
  | pktBuf
  | rxBuf
  | reserved
  | outside
deriving DecidableEq, Repr

/-- The part of the window an offset lies in (R16, R42). -/
def areaOf (off : Nat) : Area :=
  if off < 0x100 then .registers
  else if off < 0x200 then .paramBuf
  else if off < 0x300 then .txBuf
  else if off < 0x400 then .pktBuf
  else if off < 0x10000 then .reserved
  else if off < 0x20000 then
    if Config.fitsRxCap (off - 0x10000 + 1) then .rxBuf else .reserved
  else .outside

/-- Whether an access of `n` bytes is legal (R46): 4 aligned bytes in the register area; elsewhere 1 byte, or 4 aligned bytes
that lie in one area. -/
def legalAccess (off n : Nat) : Bool :=
  match areaOf off with
  | .registers => decide (n = 4) && decide (off % 4 = 0)
  | .outside => false
  | a => decide (n = 1) || (decide (n = 4) && decide (off % 4 = 0) && decide (areaOf (off + 3) = a))

/-- ByteAt (R48). -/
def byteAt (s : State) (off : Nat) : Byte :=
  match areaOf off with
  | .registers => (regWord s (off - off % 4)).extractLsb' (8 * (off % 4)) 8
  | .reserved => 0
  | .outside => 0
  | _ => byteOf s off

/-- Bytes as a little-endian number (R45, R48). -/
def littleEndian : List Byte → Nat
  | [] => 0
  | b :: bs => b.toNat + 256 * littleEndian bs

/-- The value MemRead returns for a legal access (R48). -/
def memRead (s : State) (off n : Nat) : Word :=
  BitVec.ofNat 32 (littleEndian ((List.range n).map (fun j => byteAt s (off + j))))

/-- The low `n` bytes of a value, the lowest first (R45, R49). -/
def valueBytes (v : Word) (n : Nat) : List Byte := (List.range n).map (fun j => v.extractLsb' (8 * j) 8)

/-- MemWrite for a legal access other than a write to CMD (R49). -/
def memWrite (off n : Nat) (v : Word) (s : State) : State :=
  if off = 0x004 then if v.getLsbD 12 then { s with overrun := false } else s
  else if off = 0x008 then { s with opa := v }
  else if areaOf off = .paramBuf then storeBytes off (valueBytes v n) s
  else s

/-- The fault of an access that is not legal (R42, R47). -/
def accessFault (off n : Nat) : Fault :=
  if areaOf off = .outside then .outsideWindow off else .busError off n

/-- A host read (R48): no side effect but the value returned. -/
def hostRead (off n : Nat) (s : State) : Host.Outcome State Fault Refusal :=
  if legalAccess off n then .next { s with busData := memRead s off n } else .fault (accessFault off n)

end Sys2Proof.Machine
end

