-- ==== Sys2Proof/Machine/Launch.lean ====
section
/-! DEFINITION. What each input does in its one step: a host access (R48, R49), the launch of a command (R126), the packet
sequence of R72, the transport's and the timer's events (R133), and reset (R140). -/

namespace Sys2Proof.Machine

/-- Launch(v) (R126): dropped while a receive is active (R127), BadCommand for a reserved OP (R69), else the command's rule. -/
def launch (v : Word) (s : State) : Host.Outcome State Fault Refusal :=
  if s.active.isSome then .next (dropCommand s)
  else match decode (.command v) with
  | .ok i => exec i s
  | .error _ => .next (finish .badCommand s)

/-- A host write (R49). -/
def hostWrite (off n : Nat) (v : Word) (s : State) : Host.Outcome State Fault Refusal :=
  if legalAccess off n then
    if off = 0x000 then launch v s else .next (memWrite off n v s)
  else .fault (accessFault off n)

/-- The sequence `params ...; codec.encode ...` of a wire instruction (R72) with nothing between its accesses; while a receive
is active its parameters are stored and its CMD write is dropped (R127). Assumption log 3. -/
def hostPacket (bytes : List Byte) (s : State) : Host.Outcome State Fault Refusal :=
  match decode (.packet bytes) with
  | .ok i => if s.active.isSome then .next (dropCommand (storeParams (wireParams i) s)) else exec i s
  | .error _ => .refused .notAnInstructionPacket

/-- What an input does (R5, R52). -/
def perform (e : Input) (s : State) : Host.Outcome State Fault Refusal :=
  match e with
  | .read off n => hostRead off n s
  | .write off n v => hostWrite off n v s
  | .packet bytes => hostPacket bytes s
  | .arrive b => .next (arriveByte b s)
  | .deliver => .next (deliverByte s)
  | .readError => .next (receiveError s)
  | .timeout => .next (receiveTimeout s)
  | .reset => .next (resetBlock s)

/-- With no input left the block waits for a CMD write (R142), and an active receive sees its Timeout (R133); assumption
log 5. -/
def idleStep (s : State) : Host.Outcome State Fault Refusal := .next (receiveTimeout s)

/-- The first input taken off the list and performed. -/
def takeInput (s : State) : Host.Outcome State Fault Refusal :=
  match s.inputs with
  | [] => idleStep s
  | e :: rest => perform e { s with inputs := rest }

/-- The input by which the host issues what bits encode: a write to CMD, or a packet. -/
def inputOf : Encoding → Input
  | .command w => .write 0x000 4 w
  | .packet f => .packet f

end Sys2Proof.Machine
end

