-- ==== Sys2Proof/Machine/Step.lean ====
section
/-! DEFINITION. The step, and where a row of the opcode table is put so that the next step runs it. -/

namespace Sys2Proof.Machine

/-- One step of the total order of R52: the next input, with all the block does for it. -/
def step (s : State) : Host.Outcome State Fault Refusal := takeInput s

/-- The state whose next input issues the instruction of a table row's bits (assumption logs 3 and 8). -/
def State.withFetchWord (s : State) (nbits w : Nat) : State :=
  { s with inputs := inputOf (tableEncoding nbits w) :: s.inputs }

end Sys2Proof.Machine
end

