-- ==== Sys2Proof/Safety.lean ====
section
/-! DEFINITION. What claims call a sound state: the invariants the spec states of its own state (R18, R22, R24, R25, R31, R32,
R34 to R38, R87, R114), each of which every step keeps. -/

namespace Sys2Proof.Machine

/-- Whether a window offset lies in one of the four buffers (R16). -/
def inBuffer (off : Nat) : Bool :=
  match areaOf off with
  | .paramBuf => true
  | .txBuf => true
  | .pktBuf => true
  | .rxBuf => true
  | _ => false

/-- The invariants of the group-sync-write engine. -/
structure GswSound (g : Gsw) : Prop where
  /-- "PHASE = Empty exactly when COUNT = 0" (R32). -/
  phase : g.phase = .empty ↔ gswCount g = 0
  /-- "when DIRTY = 0, FLAT equals what a rebuild would give" (R36). -/
  flat : g.dirty = false → g.flat = gswFlatten g
  /-- The slot window of a present ID has been written (R31). -/
  written : ∀ i, (gswDevOf g i).present = true → g.len.toNat ≤ (gswDevOf g i).slot.length
  /-- A slot has SLOT_BYTES bytes (R31). -/
  slots : ∀ i, (gswDevOf g i).slot.length ≤ Config.slotBytes

/-- The invariants of the group-sync-read engine. -/
structure GsrSound (g : Gsr) : Prop where
  /-- "PHASE = Empty exactly when COUNT = 0" (R35). -/
  phase : g.phase = .empty ↔ gsrCount g = 0
  /-- "when DIRTY = 0, FLAT equals what a rebuild would give" (R36). -/
  flat : g.dirty = false → g.flat = gsrFlatten g
  /-- The slot window of a present ID has been written (R34). -/
  written : ∀ i, (gsrDevOf g i).present = true → g.len.toNat ≤ (gsrDevOf g i).slot.length
  /-- A slot has 255 bytes (R34). -/
  slots : ∀ i, (gsrDevOf g i).slot.length ≤ Config.slotBytes
  /-- Only an ID of the set has valid data (R110, R111). -/
  valid : ∀ i, (gsrDevOf g i).valid = true → (gsrDevOf g i).present = true

/-- A sound state. -/
structure Sound (s : State) : Prop where
  /-- The memory is in its canonical form. -/
  memory : Memory.wf s.mem = true
  /-- Only bytes of the four buffers are ever written (R16). -/
  buffers : ∀ c ∈ s.mem, inBuffer c.1 = true
  /-- "OWNER = 0 exactly when BUSY = 0" (R18). -/
  guard : s.owner = .nobody ↔ s.busy = false
  gsw : GswSound s.gsw
  gsr : GsrSound s.gsr
  /-- "PHASE is TxSent or RxPending exactly when OWNER = GSR" (R35). -/
  gsrOwner : (s.gsr.phase = .txSent ∨ s.gsr.phase = .rxPending) ↔ s.owner = .gsr
  /-- PHASE is RxPending exactly while GSR_RX is active (R107). -/
  gsrPending : s.gsr.phase = .rxPending ↔ ∃ n, s.active = some (.gsrRx n)
  /-- An active CODEC_RECEIVE holds the guard (R86). -/
  codecOwner : ∀ x any n, s.active = some (.codecReceive x any n) → s.owner = .codec
  /-- The timer runs exactly while a receive is active (R133, R134). -/
  timer : s.timer = s.active.isSome
  /-- "Reads 5 (RxWaiting) while a receive command is active" (R18). -/
  waiting : s.active.isSome = true → s.code = .rxWaiting
  /-- TX_LEN is "0 or 6..250" (R22). -/
  txLen : s.txLen = 0 ∨ (6 ≤ s.txLen.toNat ∧ s.txLen.toNat ≤ Config.maxFrame)
  /-- A decoded packet has at most 244 parameters (R59, R81). -/
  pktCount : s.pktInfo.count.toNat ≤ Config.maxParams
  /-- RX_COUNT is in "0..RX_CAP" (R23). -/
  rxCount : s.rxCount.toNat ≤ Config.rxCap
  /-- An active CODEC_RECEIVE keeps fewer bytes than the largest frame has (R87). -/
  codecKept : ∀ x any n, s.active = some (.codecReceive x any n) → s.rxCount.toNat < Config.rxFrameMax
  /-- "nexp <= RX_CAP holds because GSR_TXREQ checked it" (R114). -/
  gsrFits : s.owner = .gsr → gsrExpected s.gsr ≤ Config.rxCap
  /-- An active GSR_RX expects COUNT * (L + 6) bytes and still waits for one (R114, R115). -/
  gsrKept : ∀ n, s.active = some (.gsrRx n) → n = gsrExpected s.gsr ∧ s.rxCount.toNat < n
  /-- "`Short(c)` with c < |bytes|" (R11), for every call of TransportWrite so far. -/
  shortWrites : ∀ e ∈ s.transport.log, ∀ c, e.2 = .short c → c < e.1.length

end Sys2Proof.Machine
end

