-- ==== Sys2Proof/Certificates/Slice0/Obligations.lean ====
section
/-! DEFINITION. The statements for the provers. Each docstring names the rules of spec/ it formalises; "log n" is an entry of
notes/assumptions and marks what is the model's own choice. -/

open Sys2Proof Sys2Proof.Machine

/-! ## The window and the order of steps (20_memory.md) -/

/-- R48, R42: a legal host read returns MemRead's value and has no side effect: in a buffer the bytes it covers, the lowest
first and 0 above them, and in a reserved area 0. The registers' values are RegisterFieldsReadAtTheirBits. The data it returns
stands in a field of the model's own (log 6). -/
def Obligations.HostReadHasNoSideEffect : Prop :=
  ∀ (s : State) (off n : Nat), legalAccess off n = true →
    (∀ rest : List Input, s.inputs = .read off n :: rest →
      step s = .next { s with busData := memRead s off n, inputs := rest }) ∧
    ((0x100 ≤ off ∧ off < 0x400 ∨ 0x10000 ≤ off ∧ off < 0x10000 + Config.rxCap) →
      ∀ j, (memRead s off n).extractLsb' (8 * j) 8 = if j < n then byteOf s (off + j) else 0) ∧
    ((0x400 ≤ off ∧ off < 0x10000 ∨ 0x10000 + Config.rxCap ≤ off) → memRead s off n = 0)

/-- R42, R46, R47: exactly the accesses R46 lists are legal, said in offsets; a read or write of any other in the window is a bus
error. The model's choice (log 6): a bus error is a fault that ends the step, and an access beyond the window, which R42 says
"are not the block's", is the fault `outsideWindow`. -/
def Obligations.IllegalAccessesAreBusErrors : Prop :=
  ∀ (off n : Nat),
    (legalAccess off n = true ↔
      (off < 0x100 ∧ n = 4 ∧ off % 4 = 0) ∨
      (0x100 ≤ off ∧ off < 0x20000 ∧
        (n = 1 ∨ (n = 4 ∧ off % 4 = 0 ∧
          ¬ (0x10000 ≤ off ∧ off < 0x10000 + Config.rxCap ∧ 0x10000 + Config.rxCap < off + 4))))) ∧
    ∀ (s : State) (v : Word) (rest : List Input), legalAccess off n = false →
      (s.inputs = .read off n :: rest ∨ s.inputs = .write off n v :: rest) →
        step s = .fault (if off < 0x20000 then .busError off n else .outsideWindow off)

/-- R45, R48, R49: a word or a byte written to PARAM_BUF is stored low byte first, reads back, and leaves every other buffer
byte and every register as they were. -/
def Obligations.ParamBufWritesReadBack : Prop :=
  ∀ (s : State) (off : Nat) (v : Word) (rest : List Input), 0x100 ≤ off → off < 0x200 →
    (off % 4 = 0 → s.inputs = .write off 4 v :: rest →
      ∃ t, step s = .next t ∧ t = { s with mem := t.mem, inputs := rest } ∧ memRead t off 4 = v ∧
        (∀ j, j < 4 → byteOf t (off + j) = v.extractLsb' (8 * j) 8) ∧
        (∀ a, a < off ∨ off + 4 ≤ a → byteOf t a = byteOf s a)) ∧
    (s.inputs = .write off 1 v :: rest →
      ∃ t, step s = .next t ∧ t = { s with mem := t.mem, inputs := rest } ∧
        memRead t off 1 = (v.extractLsb' 0 8).zeroExtend 32 ∧
        (∀ a, byteOf t a = if a = off then v.extractLsb' 0 8 else byteOf s a))

/-- R49 "else: no effect": a legal write to a read-only register, a read-only buffer or a reserved offset changes nothing. -/
def Obligations.ReadOnlyOffsetsIgnoreWrites : Prop :=
  ∀ (s : State) (off n : Nat) (v : Word) (rest : List Input),
    legalAccess off n = true → 0x00C ≤ off → (off < 0x100 ∨ 0x200 ≤ off) → s.inputs = .write off n v :: rest →
      step s = .next { s with inputs := rest }

/-- R19, R49: OPA takes every bit of the word written and reads it back. -/
def Obligations.OpaReadsBack : Prop :=
  ∀ (s : State) (v : Word) (rest : List Input), s.inputs = .write 0x008 4 v :: rest →
    step s = .next { s with opa := v, inputs := rest } ∧
      memRead { s with opa := v, inputs := rest } 0x008 4 = v

/-- R16 to R25, R123: every register reads as its fields at their bits, with each code, owner, end cause and phase at its number,
and 0 in the reserved bits; CMD and the reserved offsets of the register area read 0. -/
def Obligations.RegisterFieldsReadAtTheirBits : Prop :=
  (∀ s : State,
    memRead s 0x000 4 = 0 ∧
    (memRead s 0x004 4).toNat = (codeByte s.code).toNat + 2 ^ 8 * s.active.isSome.toNat + 2 ^ 9 * s.busy.toNat +
      2 ^ 10 * (ownerBits s.owner).toNat + 2 ^ 12 * s.overrun.toNat + 2 ^ 13 * s.pktValid.toNat ∧
    memRead s 0x008 4 = s.opa ∧ memRead s 0x00C 4 = s.result ∧
    (memRead s 0x010 4).toNat =
      s.pktInfo.id.toNat + 2 ^ 8 * s.pktInfo.error.toNat + 2 ^ 16 * s.pktInfo.count.toNat ∧
    (memRead s 0x014 4).toNat = s.txLen.toNat ∧
    (memRead s 0x018 4).toNat = s.rxCount.toNat + 2 ^ 16 * (endBits s.rxEnd).toNat ∧
    (memRead s 0x01C 4).toNat = s.gsw.start.toNat + 2 ^ 8 * s.gsw.len.toNat + 2 ^ 16 * gswCount s.gsw +
      2 ^ 24 * (gswPhaseBits s.gsw.phase).toNat + 2 ^ 26 * s.gsw.dirty.toNat ∧
    (memRead s 0x020 4).toNat = s.gsr.start.toNat + 2 ^ 8 * s.gsr.len.toNat + 2 ^ 16 * gsrCount s.gsr +
      2 ^ 24 * (gsrPhaseBits s.gsr.phase).toNat + 2 ^ 27 * s.gsr.dirty.toNat + 2 ^ 28 * s.gsr.lastOk.toNat ∧
    (∀ off, 0x024 ≤ off → off < 0x100 → off % 4 = 0 → memRead s off 4 = 0)) ∧
  [ResultCode.success, .portBusy, .txFail, .txError, .rxFail, .rxWaiting, .rxTimeout, .rxCorrupt, .notAvailable, .duplicateId,
    .payloadTooLong, .notFound, .invalidId, .badCommand].map (fun c => (codeByte c).toNat) = List.range 14 ∧
  [Owner.nobody, .codec, .gsr].map (fun o => (ownerBits o).toNat) = List.range 3 ∧
  [EndCause.noEnd, .count, .timeout, .readError, .decoded].map (fun e => (endBits e).toNat) = List.range 5 ∧
  [GswPhase.empty, .populated, .transmitted].map (fun p => (gswPhaseBits p).toNat) = List.range 3 ∧
  [GsrPhase.empty, .populated, .txSent, .rxPending, .complete, .partialFailure].map (fun p => (gsrPhaseBits p).toNat) =
    List.range 6

/-! ## Launch, drop and decode (30_encoding.md, 60_exceptions.md) -/

/-- R126: when the next input writes a word to CMD that decodes to an instruction and no receive is active, the step is the
instruction's meaning on the state with that input taken. That a packet is an input too, and runs R72's whole sequence in one
step, is the model's choice (log 3). -/
def Obligations.StepRunsTheDecodedInstruction : Prop :=
  ∀ (s : State) (e : Encoding) (i : Instr) (rest : List Input),
    s.inputs = inputOf e :: rest → s.active = none → decode e = .ok i →
      step s = exec i { s with inputs := rest }

/-- R127, R18, R49: a CMD write while a receive is active sets OVERRUN and changes nothing else; a write to STATUS clears it with a
1 in bit 12 and does nothing else, and has no effect with a 0 there; and OVERRUN, once set, is cleared only by such a write or
by reset. -/
def Obligations.DropSetsOnlyOverrun : Prop :=
  (∀ (s : State) (w : Word) (rest : List Input), s.active.isSome = true → s.inputs = .write 0x000 4 w :: rest →
    step s = .next { s with overrun := true, inputs := rest }) ∧
  (∀ (s : State) (v : Word) (rest : List Input), s.inputs = .write 0x004 4 v :: rest →
    (v.getLsbD 12 = true → step s = .next { s with overrun := false, inputs := rest }) ∧
    (v.getLsbD 12 = false → step s = .next { s with inputs := rest })) ∧
  (∀ s t : State, step s = .next t → s.overrun = true → t.overrun = false →
    ∃ rest, s.inputs = .reset :: rest ∨ ∃ v : Word, v.getLsbD 12 = true ∧ s.inputs = .write 0x004 4 v :: rest)

/-- R69, R70: every OP outside the table of R68 gives BadCommand and no other change, every OP of the table decodes. -/
def Obligations.ReservedOpsGiveBadCommand : Prop :=
  ∀ w : Word,
    let op := w.toNat % 256
    let listed := (1 ≤ op ∧ op ≤ 5) ∨ (0x10 ≤ op ∧ op ≤ 0x14) ∨ (0x20 ≤ op ∧ op ≤ 0x25) ∨ (0x30 ≤ op ∧ op ≤ 0x38)
    (listed ↔ ∃ i, decode (.command w) = .ok i) ∧
    (¬ listed → ∀ (s : State) (rest : List Input), s.active = none → s.inputs = .write 0x000 4 w :: rest →
      step s = .next { s with code := .badCommand, inputs := rest })

/-- R57, R64, R68: decode of encode i is i for every well-formed instruction, with every operand. -/
def Obligations.DecodeOfEncode : Prop :=
  ∀ i : Instr, i.wellFormed = true → decode (encode i) = .ok i

/-- R57, R59, R61, R64: an instruction packet has one meaning: what decodes to an instruction is exactly its encoding. -/
def Obligations.PacketEncodingIsUnique : Prop :=
  ∀ (f : List Byte) (i : Instr), decode (.packet f) = .ok i → i.wellFormed = true ∧ encode i = .packet f

/-- R67, R68: a command word decodes by its fields: two words with the same OP, and the same A, B and C up to the bits their
command ignores, are the same instruction, which is the one whose encoding has 0 in those bits. -/
def Obligations.CommandWordDecodesByItsFields : Prop :=
  ∀ (w : Word) (i : Instr), decode (.command w) = .ok i →
    ∃ mask : Word, encode i = .command (w &&& mask) ∧ mask &&& 0xFF = 0xFF ∧
      ∀ v : Word, v &&& mask = w &&& mask → decode (.command v) = .ok i

/-- R57, R61, R64, R67, R68: every row of the opcode table decodes to its instruction. First, for every A, B and C, the word
OP + 2^8 A + 2^16 B + 2^24 C of each of R68's 25 rows, with the operands R68 names; then the packet of each of R64's seven INSTR
values, written out byte by byte (that such a packet is an instruction at all is log 3's choice); last, a few words and packets
of 95_test_vectors.md and 40_codec.md. -/
def Obligations.SampleWordsDecode : Prop :=
  (∀ a b c : Byte,
    let row := fun (op : Nat) =>
      decode (.command (BitVec.ofNat 32 (op + 2 ^ 8 * a.toNat + 2 ^ 16 * b.toNat + 2 ^ 24 * c.toNat)))
    let bit0 := fun (x : Byte) => decide (x.toNat % 2 = 1)
    let endian := if c.toNat % 2 = 1 then Endian.big else Endian.small
    let index := BitVec.ofNat 4 (b.toNat % 16)
    row 0x01 = .ok (.codecEncode a b c) ∧ row 0x02 = .ok (.codecTransmit (bit0 a)) ∧
    row 0x03 = .ok (.codecReceive a (bit0 b) c) ∧ row 0x04 = .ok (.codecChecksum c) ∧
    row 0x05 = .ok (.codecScan a (bit0 b) c) ∧
    row 0x10 = .ok (.wordMake a b endian) ∧ row 0x11 = .ok (.wordLobyte endian) ∧ row 0x12 = .ok (.wordHibyte endian) ∧
    row 0x13 = .ok (.signToHost index) ∧ row 0x14 = .ok (.signToDevice index) ∧
    row 0x20 = .ok (.gswInit b c) ∧ row 0x21 = .ok (.gswAdd a c) ∧ row 0x22 = .ok (.gswRemove a) ∧
    row 0x23 = .ok (.gswChange a c) ∧ row 0x24 = .ok .gswClear ∧ row 0x25 = .ok .gswTransmit ∧
    row 0x30 = .ok (.gsrInit b c) ∧ row 0x31 = .ok (.gsrAdd a) ∧ row 0x32 = .ok (.gsrRemove a) ∧
    row 0x33 = .ok .gsrClear ∧ row 0x34 = .ok .gsrTxreq ∧ row 0x35 = .ok .gsrRx ∧
    row 0x36 = .ok (.gsrIsAvailable a b c) ∧ row 0x37 = .ok (.gsrGetValue a b) ∧ row 0x38 = .ok (.gsrIdResult a)) ∧
  (let frame := fun (id instr : Byte) (p : List Byte) =>
      [0xFF, 0xFF, id, BitVec.ofNat 8 (p.length + 2), instr] ++ p ++
        [BitVec.ofNat 8 (255 - (id.toNat + (p.length + 2) + instr.toNat + (p.map BitVec.toNat).sum) % 256)]
   (∀ id : Byte, decode (.packet (frame id 0x01 [])) = .ok (.ping id)) ∧
   (∀ id address length : Byte, decode (.packet (frame id 0x02 [address, length])) = .ok (.read id address length)) ∧
   (∀ (id address : Byte) (data : List Byte), data.length ≤ 243 →
     decode (.packet (frame id 0x03 (address :: data))) = .ok (.write id address data) ∧
     decode (.packet (frame id 0x04 (address :: data))) = .ok (.regwrite id address data)) ∧
   (∀ id : Byte, decode (.packet (frame id 0x05 [])) = .ok (.action id)) ∧
   (∀ (start len : Byte) (ids : List Byte), ids.length ≤ 242 →
     decode (.packet (frame 0xFE 0x82 (start :: len :: ids))) = .ok (.syncread start len ids)) ∧
   (∀ (start len : Byte) (records : List (Byte × List Byte)),
     (∀ r ∈ records, r.2.length = len.toNat) → records.length * (len.toNat + 1) ≤ 242 →
       decode (.packet (frame 0xFE 0x83 (start :: len :: (records.map (fun r => r.1 :: r.2)).flatten))) =
         .ok (.syncwrite start len records))) ∧
  decode (.command 0x03030101) = .ok (.codecEncode 1 3 3) ∧
  decode (.command 0x08000103) = .ok (.codecReceive 1 false 8) ∧
  decode (.command 0x03341210) = .ok (.wordMake 0x12 0x34 .big) ∧
  decode (.command 0x000F0013) = .ok (.signToHost 15) ∧
  decode (.command 0x06000121) = .ok (.gswAdd 1 6) ∧
  decode (.command 0x02380236) = .ok (.gsrIsAvailable 2 0x38 2) ∧
  decode (.packet [0xFF, 0xFF, 0x01, 0x02, 0x01, 0xFB]) = .ok (.ping 1) ∧
  decode (.packet [0xFF, 0xFF, 0x01, 0x05, 0x03, 0x2A, 0x00, 0x08, 0xC4]) = .ok (.write 1 0x2A [0x00, 0x08])

/-! ## Wire instructions (40_codec.md section 2) -/

/-- R57, R73 to R80 (log 3): PING, READ, WRITE, REGWRITE, ACTION, SYNCREAD and SYNCWRITE answer a next state in which TX_BUF holds
the instruction's frame and PARAM_BUF its parameters, with Success, and nothing else of the block has changed. -/
def Obligations.WireInstructionsBuildTheirFrames : Prop :=
  ∀ (i : Instr) (s : State), wireOpcode i ≠ none → i.wellFormed = true →
    ∃ t, exec i s = .next t ∧ encode i = .packet (txFrame t) ∧
      t = { s with mem := t.mem, txLen := t.txLen, code := .success, active := none } ∧
      t.txLen.toNat = (wireParams i).length + 6 ∧
      bytesOf t 0x100 (wireParams i).length = wireParams i ∧
      (∀ a, (a < 0x100 ∨ 0x100 + (wireParams i).length ≤ a) → (a < 0x200 ∨ 0x200 + t.txLen.toNat ≤ a) →
        byteOf t a = byteOf s a)

/-- R72, R74 to R80 (log 3): a wire instruction's one step is the run of the host accesses it stands for, `params p_0, ...;
codec.encode id, instr, k`, that is k byte writes and one CMD write. -/
def Obligations.WireInstructionIsItsAccessSequence : Prop :=
  ∀ (i : Instr) (f : List Byte) (id instr : Byte) (s : State) (rest : List Input),
    i.wellFormed = true → encode i = .packet f → f[2]? = some id → f[4]? = some instr → s.active = none →
    s.inputs = (wireParams i).zipIdx.map (fun bj => Input.write (0x100 + bj.2) 1 (bj.1.zeroExtend 32)) ++
      Input.write 0x000 4 (commandWord 0x01 id instr (BitVec.ofNat 8 (wireParams i).length)) :: rest →
    Host.Core.run core ((wireParams i).length + 1) s = exec i { s with inputs := rest }

/-! ## Frames and the scanner (40_codec.md sections 1 and 3) -/

/-- R83 (1): a built frame is valid, and the scanner returns it whole, in the any-ID mode and for its own ID. -/
def Obligations.BuiltFrameIsValidAndScans : Prop :=
  ∀ (id instr : Byte) (p : List Byte),
    (p.length = 245 → buildFrame id instr p = none) ∧
    (p.length ≤ 244 → ∃ f, buildFrame id instr p = some f ∧ f.length = p.length + 6 ∧ validFrame f = true ∧
      (∀ x, scan f true x = .packet 0 ⟨id, instr, p⟩) ∧ scan f false id = .packet 0 ⟨id, instr, p⟩ ∧
      scanConsumed (scan f false id) = p.length + 6)

/-- R83 (2): replacing any one byte of a valid frame by a different value makes it invalid. -/
def Obligations.SingleByteChangeInvalidates : Prop :=
  ∀ (f : List Byte) (j : Nat) (v : Byte), validFrame f = true → j < f.length → f[j]? ≠ some v →
    validFrame (f.set j v) = false

/-- R82 (2): a scan finds a well-formed status frame of an acceptable ID behind a prefix at whose positions no candidate starts,
whatever follows it: where two header bytes stand there, the third byte is no acceptable ID. A prefix without 0xFF is one
such, and in the expected-ID mode with X other than 0xFF also one whose last byte is its only 0xFF. -/
def Obligations.ScanResynchronises : Prop :=
  ∀ (g f rest : List Byte) (id error x : Byte) (p : List Byte) (any : Bool),
    buildFrame id error p = some f → (any = true ∨ id = x) →
      ((∀ h, h < g.length → (g ++ f)[h]? = some 0xFF → (g ++ f)[h + 1]? = some 0xFF →
          any = false ∧ (g ++ f)[h + 2]? ≠ some x) →
        scan (g ++ f ++ rest) any x = .packet g.length ⟨id, error, p⟩) ∧
      ((∀ b ∈ g, b ≠ 0xFF) →
        scan (g ++ f ++ rest) any x = .packet g.length ⟨id, error, p⟩ ∧
        (any = false → x ≠ 0xFF →
          scan (g ++ [0xFF] ++ f ++ rest) any x = .packet (g.length + 1) ⟨id, error, p⟩))

/-- R82 (1) and (3): what a scan returns as a packet lies in the bytes as a valid frame of at most 250 bytes, a scan never
consumes more than there is, and a failed candidate consumes at least one byte. -/
def Obligations.ScannedPacketIsAValidFrame : Prop :=
  ∀ (b : List Byte) (any : Bool) (x : Byte),
    scanConsumed (scan b any x) ≤ b.length ∧
    (∀ h, scan b any x = .failed h → 1 ≤ scanConsumed (scan b any x)) ∧
    (∀ h p, scan b any x = .packet h p →
      validFrame ((b.drop h).take (p.params.length + 6)) = true ∧ p.params.length + 6 ≤ 250 ∧
      buildFrame p.id p.error p.params = some ((b.drop h).take (p.params.length + 6)) ∧ (any = true ∨ p.id = x))

/-! ## Codec commands (40_codec.md section 4) -/

/-- R84: CODEC_ENCODE, both cases, with all that stays. -/
def Obligations.CodecEncodeResult : Prop :=
  ∀ (id instr k : Byte) (s : State),
    (244 < k.toNat → exec (.codecEncode id instr k) s =
      .next { s with txLen := 0, code := .txError, active := none }) ∧
    (k.toNat ≤ 244 → ∃ t, exec (.codecEncode id instr k) s = .next t ∧
      t = { s with mem := t.mem, txLen := k + 6, code := .success, active := none } ∧
      buildFrame id instr (bytesOf s 0x100 k.toNat) = some (bytesOf t 0x200 (k.toNat + 6)) ∧
      (∀ a, a < 0x200 ∨ 0x200 + k.toNat + 6 ≤ a → byteOf t a = byteOf s a))

/-- R85: CODEC_TRANSMIT, every outcome in the order of its checks. The frame sent is TX_BUF[0..TX_LEN-1]. -/
def Obligations.CodecTransmitResult : Prop :=
  ∀ (expect : Bool) (s : State),
    (s.busy = true → exec (.codecTransmit expect) s = .next { s with code := .portBusy, active := none }) ∧
    (s.busy = false → s.txLen = 0 →
      exec (.codecTransmit expect) s = .next { s with code := .txError, active := none }) ∧
    (s.busy = false → s.txLen ≠ 0 →
      let f := bytesOf s 0x200 s.txLen.toNat
      let sent : Transport :=
        { rxq := [], answers := s.transport.answers.tail, log := s.transport.log ++ [(f, nextOutcome f s)] }
      (nextOutcome f s ≠ .full → exec (.codecTransmit expect) s =
        .next { s with transport := sent, owner := .nobody, code := .txFail, active := none }) ∧
      (nextOutcome f s = .full → exec (.codecTransmit expect) s =
        .next { s with transport := sent, busy := expect, owner := if expect then .codec else .nobody,
                       code := .success, active := none }))

/-- R86: the launch of CODEC_RECEIVE. -/
def Obligations.CodecReceiveLaunch : Prop :=
  ∀ (id : Byte) (any : Bool) (nexp : Byte) (s : State),
    (s.owner = .gsr → exec (.codecReceive id any nexp) s = .next { s with code := .portBusy, active := none }) ∧
    (s.owner ≠ .gsr → exec (.codecReceive id any nexp) s =
      .next { s with busy := true, owner := if s.busy then s.owner else .codec, rxCount := 0, pktValid := false,
                     active := some (.codecReceive id any nexp), code := .rxWaiting, timer := true })

/-- R87, R82 (2), E8: from a launched CODEC_RECEIVE, delivering bytes without 0xFF and then a status frame of an acceptable ID,
one byte a step, ends it with Success at the frame's last byte: the packet is in PKTINFO and PKT_BUF, the frame in
RX_BUF, the guard is free, later bytes stay in RXQ, and no register or engine the rule does not name has changed. -/
def Obligations.CodecReceiveDecodesAStreamedFrame : Prop :=
  ∀ (s : State) (x : Byte) (any : Bool) (nexp id error : Byte) (p g f q : List Byte) (rest : List Input),
    s.active = some (.codecReceive x any nexp) → s.rxCount = 0 → (any = true ∨ id = x) → (∀ b ∈ g, b ≠ 0xFF) →
    buildFrame id error p = some f → s.transport.rxq = g ++ f ++ q →
    s.inputs = List.replicate (g.length + f.length) .deliver ++ rest →
      ∃ t, Host.Core.run core (g.length + f.length) s = .next t ∧
        t = { s with code := .success, busy := false, owner := .nobody, pktValid := true,
                     pktInfo := ⟨id, error, BitVec.ofNat 8 p.length⟩, rxCount := BitVec.ofNat 16 f.length,
                     rxEnd := .decoded, mem := t.mem, active := none, timer := false,
                     transport := { s.transport with rxq := q }, inputs := rest } ∧
        bytesOf t 0x300 p.length = p ∧ rxBytes t = f ∧
        (∀ a, (a < 0x300 ∨ 0x300 + p.length ≤ a) → (a < 0x10000 ∨ 0x10000 + f.length ≤ a) →
          byteOf t a = byteOf s a)

/-- R87: each later step of CODEC_RECEIVE. `b` is RX_BUF with the byte appended; a packet and a failed candidate end the
command, otherwise the consumed bytes are dropped from its front and the places behind the rest stay; a timer expiry and a read
error end it. The premise on RX_COUNT is Sound's `codecKept`. -/
def Obligations.CodecReceiveSteps : Prop :=
  ∀ (s : State) (x : Byte) (any : Bool) (nexp : Byte) (rest : List Input),
    s.active = some (.codecReceive x any nexp) → s.rxCount.toNat < 250 →
    (∀ (v : Byte) (q : List Byte), s.transport.rxq = v :: q → s.inputs = .deliver :: rest →
      let b := rxBytes s ++ [v]
      ∃ t, step s = .next t ∧
        (∀ h p, scan b any x = .packet h p →
          t = { s with mem := t.mem, rxCount := s.rxCount + 1, rxEnd := .decoded, pktValid := true,
                       pktInfo := ⟨p.id, p.error, BitVec.ofNat 8 p.params.length⟩, busy := false, owner := .nobody,
                       code := .success, active := none, timer := false,
                       transport := { s.transport with rxq := q }, inputs := rest } ∧
          rxBytes t = b ∧ bytesOf t 0x300 p.params.length = p.params ∧
          (∀ a, (a < 0x300 ∨ 0x300 + p.params.length ≤ a) → a ≠ 0x10000 + s.rxCount.toNat →
            byteOf t a = byteOf s a)) ∧
        (∀ h, scan b any x = .failed h →
          t = { s with mem := t.mem, rxCount := s.rxCount + 1, rxEnd := .decoded, busy := false, owner := .nobody,
                       code := .rxCorrupt, active := none, timer := false,
                       transport := { s.transport with rxq := q }, inputs := rest } ∧
          rxBytes t = b ∧ (∀ a, a ≠ 0x10000 + s.rxCount.toNat → byteOf t a = byteOf s a)) ∧
        (∀ h, (scan b any x = .incomplete h ∨ scan b any x = .noHeader h) →
          t = { s with mem := t.mem, rxCount := t.rxCount, transport := { s.transport with rxq := q }, inputs := rest } ∧
          rxBytes t = b.drop h ∧
          (∀ j, b.length - h ≤ j → j < b.length → b[j]? = some (byteOf t (0x10000 + j))) ∧
          (∀ a, (a < 0x10000 ∨ 0x10000 + b.length ≤ a) → byteOf t a = byteOf s a))) ∧
    (s.timer = true → s.inputs = .timeout :: rest → step s =
      .next { s with busy := false, owner := .nobody, rxEnd := .timeout, code := .rxTimeout, active := none,
                     timer := false, inputs := rest }) ∧
    (s.inputs = .readError :: rest → step s =
      .next { s with busy := false, owner := .nobody, rxEnd := .readError, code := .rxFail, active := none,
                     timer := false, inputs := rest })

/-- R61, R88: CODEC_CHECKSUM: 255 less the sum of PARAM_BUF[0..n-1] modulo 256. -/
def Obligations.CodecChecksumResult : Prop :=
  ∀ (n : Byte) (s : State), ∃ r : Word,
    exec (.codecChecksum n) s = .next { s with result := r, code := .success, active := none } ∧
      r.toNat = 255 - ((List.range n.toNat).map (fun j => (byteOf s (0x100 + j)).toNat)).sum % 256

/-- R81, R89: CODEC_SCAN on PARAM_BUF[0..n-1], whatever the scan answers: RESULT, the code, PKT_VALID, PKTINFO, PKT_BUF, and
nothing else. -/
def Obligations.CodecScanResult : Prop :=
  ∀ (id : Byte) (any : Bool) (n : Byte) (s : State), ∃ t, exec (.codecScan id any n) s = .next t ∧
    t = { s with result := t.result, code := t.code, pktValid := t.pktValid, pktInfo := t.pktInfo, mem := t.mem,
                 active := none } ∧
    (∀ h p, scan (bytesOf s 0x100 n.toNat) any id = .packet h p →
      t.code = .success ∧ t.pktValid = true ∧ t.result.toNat = (h + p.params.length + 6) + 2 ^ 16 * h ∧
      t.pktInfo.id = p.id ∧ t.pktInfo.error = p.error ∧ t.pktInfo.count.toNat = p.params.length ∧
      bytesOf t 0x300 p.params.length = p.params ∧
      (∀ a, a < 0x300 ∨ 0x300 + p.params.length ≤ a → byteOf t a = byteOf s a)) ∧
    (∀ h, scan (bytesOf s 0x100 n.toNat) any id = .failed h →
      t = { s with result := t.result, code := .rxCorrupt, pktValid := false, active := none } ∧
        t.result.toNat = (h + 1) + 2 ^ 16 * h) ∧
    (∀ h, scan (bytesOf s 0x100 n.toNat) any id = .incomplete h →
      t = { s with result := t.result, code := .rxWaiting, pktValid := false, active := none } ∧
        t.result.toNat = h + 2 ^ 16 * h) ∧
    (∀ h, scan (bytesOf s 0x100 n.toNat) any id = .noHeader h →
      t = { s with result := t.result, code := .rxWaiting, pktValid := false, active := none } ∧
        t.result.toNat = n.toNat + 2 ^ 16 * 0xFFFF)

/-! ## The word codec (41_word_codec.md) -/

/-- R91: WORD_MAKE in both endian modes. -/
def Obligations.WordMakeResult : Prop :=
  ∀ (b0 b1 : Byte) (s : State),
    (∃ r : Word, exec (.wordMake b0 b1 .small) s = .next { s with result := r, code := .success, active := none } ∧
      r.toNat = b0.toNat + 256 * b1.toNat) ∧
    (∃ r : Word, exec (.wordMake b0 b1 .big) s = .next { s with result := r, code := .success, active := none } ∧
      r.toNat = 256 * b0.toNat + b1.toNat)

/-- R92, R93: WORD_LOBYTE and WORD_HIBYTE in both endian modes; OPA[31:16] is ignored. The last two lines are R93's property:
WORD_MAKE of the two bytes, in the mode they were taken in, is OPA[15:0]. -/
def Obligations.WordBytesResult : Prop :=
  ∀ s : State, ∃ lo hi : Word,
    lo.toNat = s.opa.toNat % 256 ∧ hi.toNat = s.opa.toNat / 256 % 256 ∧
    exec (.wordLobyte .small) s = .next { s with result := lo, code := .success, active := none } ∧
    exec (.wordLobyte .big) s = .next { s with result := hi, code := .success, active := none } ∧
    exec (.wordHibyte .small) s = .next { s with result := hi, code := .success, active := none } ∧
    exec (.wordHibyte .big) s = .next { s with result := lo, code := .success, active := none } ∧
    ∀ u : State, ∃ w : Word, w.toNat = s.opa.toNat % 2 ^ 16 ∧
      exec (.wordMake (lo.extractLsb' 0 8) (hi.extractLsb' 0 8) .small) u =
        .next { u with result := w, code := .success, active := none } ∧
      exec (.wordMake (hi.extractLsb' 0 8) (lo.extractLsb' 0 8) .big) u =
        .next { u with result := w, code := .success, active := none }

/-- R93, the source's endian symmetry: WORD_MAKE of WORD_LOBYTE and WORD_HIBYTE gives back OPA[15:0], in each mode. -/
def Obligations.EndianSymmetry : Prop :=
  ∀ (e : Endian) (s t u v : State),
    exec (.wordLobyte e) s = .next t → exec (.wordHibyte e) s = .next u →
    exec (.wordMake (t.result.extractLsb' 0 8) (u.result.extractLsb' 0 8) e) s = .next v →
      v.result.toNat = s.opa.toNat % 2 ^ 16

/-- R95: SIGN_TO_HOST, in integers: v = OPA[15:0], and -(v - 2^s) where bit s of v is set. -/
def Obligations.SignToHostResult : Prop :=
  ∀ (i : BitVec 4) (s : State), ∃ r : Word,
    exec (.signToHost i) s = .next { s with result := r, code := .success, active := none } ∧
      r.toInt = if s.opa.getLsbD i.toNat then 2 ^ i.toNat - (s.opa.toNat % 2 ^ 16 : Int) else (s.opa.toNat % 2 ^ 16 : Int)

/-- R96: SIGN_TO_DEVICE: a non-negative OPA passes through; of a negative one the magnitude, with bit s set. -/
def Obligations.SignToDeviceResult : Prop :=
  ∀ (i : BitVec 4) (s : State), ∃ r : Word,
    exec (.signToDevice i) s = .next { s with result := r, code := .success, active := none } ∧
      (0 ≤ s.opa.toInt → r = s.opa) ∧
      (s.opa.toInt < 0 → ∀ j, r.getLsbD j = (decide (j = i.toNat) || (-s.opa).getLsbD j))

/-- R97: the sign round trip, on any states whose OPA holds the value and then the low half of the result. -/
def Obligations.SignRoundTrip : Prop :=
  ∀ (i : BitVec 4) (v : Int) (s t u w : State),
    -(2 ^ i.toNat - 1) ≤ v → v ≤ 2 ^ i.toNat - 1 → s.opa = BitVec.ofInt 32 v →
    exec (.signToDevice i) s = .next t → u.opa.extractLsb' 0 16 = t.result.extractLsb' 0 16 →
    exec (.signToHost i) u = .next w → w.result.toInt = v

/-! ## Group sync write (42_group_sync_write.md) -/

/-- R99: GSW_INIT. -/
def Obligations.GswInitResult : Prop :=
  ∀ (start len : Byte) (s : State), ∃ t, exec (.gswInit start len) s = .next t ∧
    t = { s with gsw := t.gsw, code := .success, active := none } ∧
    t.gsw = { start := start, len := len, devs := t.gsw.devs, phase := .empty, dirty := true, flat := [] } ∧
    gswCount t.gsw = 0 ∧ (∀ j, (gswDevOf t.gsw j).present = false)

/-- R100: GSW_ADD: its three failures in order, each changing STATUS.RESULT alone, and its effect. -/
def Obligations.GswAddResult : Prop :=
  ∀ (id n : Byte) (s : State),
    (0xFC < id.toNat → exec (.gswAdd id n) s = .next { s with code := .invalidId, active := none }) ∧
    (id.toNat ≤ 0xFC → (gswDevOf s.gsw id.toNat).present = true →
      exec (.gswAdd id n) s = .next { s with code := .duplicateId, active := none }) ∧
    (id.toNat ≤ 0xFC → (gswDevOf s.gsw id.toNat).present = false → s.gsw.len.toNat < n.toNat →
      exec (.gswAdd id n) s = .next { s with code := .payloadTooLong, active := none }) ∧
    (id.toNat ≤ 0xFC → (gswDevOf s.gsw id.toNat).present = false → n.toNat ≤ s.gsw.len.toNat →
      ∃ t, exec (.gswAdd id n) s = .next t ∧ t = { s with gsw := t.gsw, code := .success, active := none } ∧
        t.gsw = { s.gsw with devs := t.gsw.devs, phase := .populated, dirty := true } ∧
        (gswDevOf t.gsw id.toNat).present = true ∧
        slotBytes id.toNat (gswDevOf t.gsw id.toNat).slot s.gsw.len.toNat =
          bytesOf s 0x100 n.toNat ++ List.replicate (s.gsw.len.toNat - n.toNat) 0 ∧
        gswCount t.gsw = gswCount s.gsw + 1 ∧
        (∀ j, j ≠ id.toNat → gswDevOf t.gsw j = gswDevOf s.gsw j))

/-- R101: GSW_REMOVE. -/
def Obligations.GswRemoveResult : Prop :=
  ∀ (id : Byte) (s : State),
    ((0xFC < id.toNat ∨ (gswDevOf s.gsw id.toNat).present = false) →
      exec (.gswRemove id) s = .next { s with code := .notFound, active := none }) ∧
    ((gswDevOf s.gsw id.toNat).present = true →
      ∃ t, exec (.gswRemove id) s = .next t ∧ t = { s with gsw := t.gsw, code := .success, active := none } ∧
        t.gsw = { s.gsw with devs := t.gsw.devs, phase := t.gsw.phase, dirty := true } ∧
        (gswDevOf t.gsw id.toNat).present = false ∧ gswCount t.gsw + 1 = gswCount s.gsw ∧
        t.gsw.phase = (if gswCount s.gsw = 1 then .empty else .populated) ∧
        (∀ j, j ≠ id.toNat → gswDevOf t.gsw j = gswDevOf s.gsw j))

/-- R102: GSW_CHANGE. -/
def Obligations.GswChangeResult : Prop :=
  ∀ (id n : Byte) (s : State),
    ((0xFC < id.toNat ∨ (gswDevOf s.gsw id.toNat).present = false) →
      exec (.gswChange id n) s = .next { s with code := .notFound, active := none }) ∧
    ((gswDevOf s.gsw id.toNat).present = true → s.gsw.len.toNat < n.toNat →
      exec (.gswChange id n) s = .next { s with code := .payloadTooLong, active := none }) ∧
    ((gswDevOf s.gsw id.toNat).present = true → n.toNat ≤ s.gsw.len.toNat →
      ∃ t, exec (.gswChange id n) s = .next t ∧ t = { s with gsw := t.gsw, code := .success, active := none } ∧
        t.gsw = { s.gsw with devs := t.gsw.devs, phase := .populated, dirty := true } ∧
        (gswDevOf t.gsw id.toNat).present = true ∧
        slotBytes id.toNat (gswDevOf t.gsw id.toNat).slot s.gsw.len.toNat =
          bytesOf s 0x100 n.toNat ++ List.replicate (s.gsw.len.toNat - n.toNat) 0 ∧
        gswCount t.gsw = gswCount s.gsw ∧
        (∀ j, j ≠ id.toNat → gswDevOf t.gsw j = gswDevOf s.gsw j))

/-- R103: GSW_CLEAR; START and L are kept. -/
def Obligations.GswClearResult : Prop :=
  ∀ s : State, ∃ t, exec .gswClear s = .next t ∧ t = { s with gsw := t.gsw, code := .success, active := none } ∧
    t.gsw = { s.gsw with devs := t.gsw.devs, phase := .empty, dirty := true } ∧
    gswCount t.gsw = 0 ∧ (∀ j, (gswDevOf t.gsw j).present = false)

/-- R104: a rebuild clears DIRTY and leaves in FLAT, for the present IDs in ascending order, the ID and its L slot bytes: COUNT *
(L + 1) bytes. -/
def Obligations.GswRebuildListsOneRecordPerId : Prop :=
  ∀ g : Gsw, g.dirty = true →
    let h := rebuildGsw g
    h = { g with flat := h.flat, dirty := false } ∧ h.flat.length = gswCount g * (g.len.toNat + 1) ∧
    ∃ ids : List Nat,
      ids.Pairwise (· < ·) ∧ (∀ j, j ∈ ids ↔ (gswDevOf g j).present = true) ∧ ids.length = gswCount g ∧
      ∀ k (hk : k < ids.length),
        (h.flat.drop (k * (g.len.toNat + 1))).take (g.len.toNat + 1) =
          BitVec.ofNat 8 ids[k] :: slotBytes ids[k] (gswDevOf g ids[k]).slot g.len.toNat

/-- R105: GSW_TRANSMIT: its failures in order and its effect. `fl` is FLAT after the rebuild that DIRTY asks for. -/
def Obligations.GswTransmitResult : Prop :=
  ∀ s : State,
    (gswCount s.gsw = 0 → exec .gswTransmit s = .next { s with code := .notAvailable, active := none }) ∧
    (gswCount s.gsw ≠ 0 → s.busy = true →
      exec .gswTransmit s = .next { s with code := .portBusy, active := none }) ∧
    (gswCount s.gsw ≠ 0 → s.busy = false →
      let fl := if s.gsw.dirty then gswFlatten s.gsw else s.gsw.flat
      (250 < 8 + fl.length → exec .gswTransmit s =
        .next { s with gsw := { s.gsw with flat := fl, dirty := false }, txLen := 0, code := .txError,
                       active := none }) ∧
      (8 + fl.length ≤ 250 → ∃ f t, buildFrame 0xFE 0x83 (s.gsw.start :: s.gsw.len :: fl) = some f ∧
        exec .gswTransmit s = .next t ∧
        t = { s with
          mem := t.mem, txLen := BitVec.ofNat 8 f.length, owner := .nobody, active := none,
          code := if nextOutcome f s = .full then .success else .txFail,
          transport := { rxq := [], answers := s.transport.answers.tail,
                         log := s.transport.log ++ [(f, nextOutcome f s)] },
          gsw := { s.gsw with flat := fl, dirty := false,
                              phase := if nextOutcome f s = .full then .transmitted else s.gsw.phase } } ∧
        txFrame t = f ∧ (∀ a, a < 0x200 ∨ 0x200 + f.length ≤ a → byteOf t a = byteOf s a)))

/-- R106: two transmits with no change of the engine but PHASE between them send byte-identical frames. -/
def Obligations.GswTransmitTwiceSendsTheSame : Prop :=
  ∀ s t u v : State,
    exec .gswTransmit s = .next t → t.code = .success →
    u.gsw = { t.gsw with phase := u.gsw.phase } → exec .gswTransmit u = .next v → v.code = .success →
      ∃ f, t.transport.log = s.transport.log ++ [(f, .full)] ∧ v.transport.log = u.transport.log ++ [(f, .full)]

/-! ## Group sync read (43_group_sync_read.md) -/

/-- R108: GSR_INIT: PortBusy in phase TxSent, else its effect. -/
def Obligations.GsrInitResult : Prop :=
  ∀ (start len : Byte) (s : State),
    (s.gsr.phase = .txSent → exec (.gsrInit start len) s = .next { s with code := .portBusy, active := none }) ∧
    (s.gsr.phase ≠ .txSent →
      ∃ t, exec (.gsrInit start len) s = .next t ∧ t = { s with gsr := t.gsr, code := .success, active := none } ∧
        t.gsr = { start := start, len := len, devs := t.gsr.devs, phase := .empty, dirty := true, lastOk := false,
                  flat := [] } ∧
        gsrCount t.gsr = 0 ∧
        (∀ j, (gsrDevOf t.gsr j).present = false ∧ (gsrDevOf t.gsr j).valid = false ∧
          (gsrDevOf t.gsr j).idres = .notAvailable ∧ (gsrDevOf t.gsr j).iderr = 0))

/-- R109: GSR_ADD: its failures in order, each changing STATUS.RESULT alone, and its effect. -/
def Obligations.GsrAddResult : Prop :=
  ∀ (id : Byte) (s : State),
    (s.gsr.phase = .txSent → exec (.gsrAdd id) s = .next { s with code := .portBusy, active := none }) ∧
    (s.gsr.phase ≠ .txSent → 0xFC < id.toNat →
      exec (.gsrAdd id) s = .next { s with code := .invalidId, active := none }) ∧
    (s.gsr.phase ≠ .txSent → (gsrDevOf s.gsr id.toNat).present = true →
      exec (.gsrAdd id) s = .next { s with code := .duplicateId, active := none }) ∧
    (s.gsr.phase ≠ .txSent → id.toNat ≤ 0xFC → (gsrDevOf s.gsr id.toNat).present = false →
      ∃ t, exec (.gsrAdd id) s = .next t ∧ t = { s with gsr := t.gsr, code := .success, active := none } ∧
        t.gsr = { s.gsr with devs := t.gsr.devs, phase := .populated, dirty := true } ∧
        gsrDevOf t.gsr id.toNat =
          { present := true, slot := (gsrDevOf t.gsr id.toNat).slot, valid := false, idres := .notAvailable,
            iderr := 0 } ∧
        slotBytes id.toNat (gsrDevOf t.gsr id.toNat).slot s.gsr.len.toNat = List.replicate s.gsr.len.toNat 0 ∧
        gsrCount t.gsr = gsrCount s.gsr + 1 ∧
        (∀ j, j ≠ id.toNat → gsrDevOf t.gsr j = gsrDevOf s.gsr j))

/-- R110: GSR_REMOVE: its failures in order and its effect. -/
def Obligations.GsrRemoveResult : Prop :=
  ∀ (id : Byte) (s : State),
    (s.gsr.phase = .txSent → exec (.gsrRemove id) s = .next { s with code := .portBusy, active := none }) ∧
    (s.gsr.phase ≠ .txSent → (0xFC < id.toNat ∨ (gsrDevOf s.gsr id.toNat).present = false) →
      exec (.gsrRemove id) s = .next { s with code := .notFound, active := none }) ∧
    (s.gsr.phase ≠ .txSent → (gsrDevOf s.gsr id.toNat).present = true →
      ∃ t, exec (.gsrRemove id) s = .next t ∧ t = { s with gsr := t.gsr, code := .success, active := none } ∧
        t.gsr = { s.gsr with devs := t.gsr.devs, phase := t.gsr.phase, dirty := true } ∧
        gsrDevOf t.gsr id.toNat = { gsrDevOf s.gsr id.toNat with present := false, valid := false } ∧
        gsrCount t.gsr + 1 = gsrCount s.gsr ∧
        t.gsr.phase = (if gsrCount s.gsr = 1 then .empty else .populated) ∧
        (∀ j, j ≠ id.toNat → gsrDevOf t.gsr j = gsrDevOf s.gsr j))

/-- R111: GSR_CLEAR: PortBusy in phase TxSent, else its effect; START, L and LAST_OK are kept. -/
def Obligations.GsrClearResult : Prop :=
  ∀ s : State,
    (s.gsr.phase = .txSent → exec .gsrClear s = .next { s with code := .portBusy, active := none }) ∧
    (s.gsr.phase ≠ .txSent →
      ∃ t, exec .gsrClear s = .next t ∧ t = { s with gsr := t.gsr, code := .success, active := none } ∧
        t.gsr = { s.gsr with devs := t.gsr.devs, phase := .empty, dirty := true } ∧
        gsrCount t.gsr = 0 ∧
        (∀ j, gsrDevOf t.gsr j = { gsrDevOf s.gsr j with present := false, valid := false }))

/-- R112: a rebuild of the GSR clears DIRTY and leaves the present IDs in FLAT, ascending, each once. -/
def Obligations.GsrRebuildListsThePresentIds : Prop :=
  ∀ g : Gsr, g.dirty = true →
    let h := rebuildGsr g
    h = { g with flat := h.flat, dirty := false } ∧ h.flat.length = gsrCount g ∧
    (h.flat.map BitVec.toNat).Pairwise (· < ·) ∧
    ∀ id : Byte, id ∈ h.flat ↔ (gsrDevOf g id.toNat).present = true

/-- R113: GSR_TXREQ: its failures in order and its effect. `fl` is FLAT after the rebuild that DIRTY asks for. -/
def Obligations.GsrTxreqResult : Prop :=
  ∀ s : State,
    (gsrCount s.gsr = 0 → exec .gsrTxreq s = .next { s with code := .notAvailable, active := none }) ∧
    (gsrCount s.gsr ≠ 0 → s.busy = true →
      exec .gsrTxreq s = .next { s with code := .portBusy, active := none }) ∧
    (gsrCount s.gsr ≠ 0 → s.busy = false →
      let fl := if s.gsr.dirty then gsrFlatten s.gsr else s.gsr.flat
      ((250 < 8 + fl.length ∨ Config.rxCap < gsrCount s.gsr * (s.gsr.len.toNat + 6)) → exec .gsrTxreq s =
        .next { s with gsr := { s.gsr with flat := fl, dirty := false }, txLen := 0, code := .txError,
                       active := none }) ∧
      (8 + fl.length ≤ 250 → gsrCount s.gsr * (s.gsr.len.toNat + 6) ≤ Config.rxCap →
        ∃ f t, buildFrame 0xFE 0x82 (s.gsr.start :: s.gsr.len :: fl) = some f ∧ exec .gsrTxreq s = .next t ∧
          t = { s with
            mem := t.mem, txLen := BitVec.ofNat 8 f.length, active := none, gsr := t.gsr,
            busy := decide (nextOutcome f s = .full), owner := if nextOutcome f s = .full then .gsr else .nobody,
            code := if nextOutcome f s = .full then .success else .txFail,
            transport := { rxq := [], answers := s.transport.answers.tail,
                           log := s.transport.log ++ [(f, nextOutcome f s)] } } ∧
          txFrame t = f ∧ (∀ a, a < 0x200 ∨ 0x200 + f.length ≤ a → byteOf t a = byteOf s a) ∧
          (nextOutcome f s ≠ .full → t.gsr = { s.gsr with flat := fl, dirty := false }) ∧
          (nextOutcome f s = .full →
            t.gsr = { s.gsr with flat := fl, dirty := false, devs := t.gsr.devs, phase := .txSent } ∧
            ∀ j, gsrDevOf t.gsr j =
              if (gsrDevOf s.gsr j).present then { gsrDevOf s.gsr j with valid := false, idres := .notAvailable }
              else gsrDevOf s.gsr j)))

/-- R114: the launch of GSR_RX. -/
def Obligations.GsrRxLaunch : Prop :=
  ∀ s : State,
    (s.gsr.phase ≠ .txSent → exec .gsrRx s = .next { s with code := .notAvailable, active := none }) ∧
    (s.gsr.phase = .txSent → exec .gsrRx s =
      .next { s with gsr := { s.gsr with phase := .rxPending }, rxCount := 0, code := .rxWaiting, timer := true,
                     active := some (.gsrRx (gsrCount s.gsr * (s.gsr.len.toNat + 6))) })

/-- R115: each later step of GSR_RX, in a sound state. A delivered byte is appended to RX_BUF and nothing else happens before the
nexp-th; with the nexp-th the step is Demux(COUNT) of the state with the byte appended, and a timer expiry and a read error
are Demux(TIMEOUT) and Demux(READ_ERROR). What Demux leaves is the other statements'. -/
def Obligations.GsrRxCollectsEveryByte : Prop :=
  ∀ (s : State) (nexp : Nat) (rest : List Input), Sound s → s.active = some (.gsrRx nexp) →
    (∀ (v : Byte) (q : List Byte), s.transport.rxq = v :: q → s.inputs = .deliver :: rest →
      ∃ t, t = { s with mem := t.mem, rxCount := s.rxCount + 1, transport := { s.transport with rxq := q },
                        inputs := rest } ∧
        t.rxCount.toNat = s.rxCount.toNat + 1 ∧ rxBytes t = rxBytes s ++ [v] ∧
        (∀ a, a ≠ 0x10000 + s.rxCount.toNat → byteOf t a = byteOf s a) ∧
        s.rxCount.toNat + 1 ≤ nexp ∧
        step s = .next (if s.rxCount.toNat + 1 = nexp then demux .count t else t)) ∧
    (s.inputs = .timeout :: rest → step s = .next (demux .timeout { s with inputs := rest })) ∧
    (s.inputs = .readError :: rest → step s = .next (demux .readError { s with inputs := rest }))

/-- R116, R117, R118: partial-failure isolation. Three requested IDs a < b < c; the collected bytes are a's frame, b's frame with
another checksum byte, and c's frame, each of L parameters; no other place of the bytes looks like a header of b or of c.
Then a and c end with Success and their bytes, b with RxCorrupt, and the overall result is RxCorrupt. -/
def Obligations.PartialFailureIsolation : Prop :=
  ∀ (s : State) (cause : EndCause) (a b c : Byte) (ea eb ec cs : Byte) (pa pb pc fa fb fc stream : List Byte),
    gsrIds s.gsr = [a.toNat, b.toNat, c.toNat] →
    pa.length = s.gsr.len.toNat → pb.length = s.gsr.len.toNat → pc.length = s.gsr.len.toNat →
    buildFrame a ea pa = some fa → buildFrame b eb pb = some fb → buildFrame c ec pc = some fc →
    fb.getLast? ≠ some cs → stream = fa ++ (fb.dropLast ++ [cs]) ++ fc → rxBytes s = stream →
    (∀ h, stream[h]? = some 0xFF → stream[h + 1]? = some 0xFF → stream[h + 2]? = some b → h = fa.length) →
    (∀ h, stream[h]? = some 0xFF → stream[h + 1]? = some 0xFF → stream[h + 2]? = some c → h = fa.length + fb.length) →
      let t := demux cause s
      t.code = .rxCorrupt ∧ t.gsr.phase = .partialFailure ∧ t.gsr.lastOk = false ∧ t.active = none ∧
      t.busy = false ∧ t.owner = .nobody ∧ t.rxEnd = cause ∧
      (gsrDevOf t.gsr a.toNat).idres = .success ∧ (gsrDevOf t.gsr a.toNat).valid = true ∧
      (gsrDevOf t.gsr a.toNat).iderr = ea ∧
      slotBytes a.toNat (gsrDevOf t.gsr a.toNat).slot s.gsr.len.toNat = pa ∧
      gsrDevOf t.gsr b.toNat = { gsrDevOf s.gsr b.toNat with idres := .rxCorrupt, valid := false } ∧
      (gsrDevOf t.gsr c.toNat).idres = .success ∧ (gsrDevOf t.gsr c.toNat).valid = true ∧
      (gsrDevOf t.gsr c.toNat).iderr = ec ∧
      slotBytes c.toNat (gsrDevOf t.gsr c.toNat).slot s.gsr.len.toNat = pc

/-- R117, corner case: a timer expiry before any byte arrived gives RxTimeout for every ID and overall, keeps the slots, and frees
the guard. -/
def Obligations.GsrTimeoutWithoutBytes : Prop :=
  ∀ (s : State) (nexp : Nat) (rest : List Input),
    s.active = some (.gsrRx nexp) → s.timer = true → s.rxCount = 0 → gsrCount s.gsr ≠ 0 →
    s.inputs = .timeout :: rest →
      ∃ t, step s = .next t ∧
        t = { s with code := .rxTimeout, busy := false, owner := .nobody, rxEnd := .timeout, active := none,
                     timer := false, gsr := t.gsr, inputs := rest } ∧
        t.gsr = { s.gsr with devs := t.gsr.devs, phase := .partialFailure, lastOk := false } ∧
        (∀ j, gsrDevOf t.gsr j =
          if (gsrDevOf s.gsr j).present then { gsrDevOf s.gsr j with valid := false, idres := .rxTimeout }
          else gsrDevOf s.gsr j)

/-- R116, R117, R128: what the end of GSR_RX leaves. "Its result does not depend on other IDs' scans": an ID's entry afterwards
depends only on the collected bytes, L, the cause and its own entry before. That entry, by the first answer of the ID's scan: a
frame of L parameters is stored; no frame gives the code of the cause; a failed candidate, and a frame of another parameter
count, give what the bytes behind its first one give, with RxCorrupt for every failure. The overall code is that of the
highest failing ID, and Success where none fails; LAST_OK and PHASE say which. RXINFO.END is the cause, the guard is free, no command
is active and the timer is stopped (R133); nothing else changes, so START, L, FLAT and DIRTY, the other registers, the other engine
and every buffer byte stay, RX_BUF's collected bytes among them (D58). -/
def Obligations.DemuxIsIndependentPerId : Prop :=
  (∀ (s t : State) (cause : EndCause) (j : Nat),
    rxBytes s = rxBytes t → s.gsr.len = t.gsr.len → gsrDevOf s.gsr j = gsrDevOf t.gsr j →
      gsrDevOf (demux cause s).gsr j = gsrDevOf (demux cause t).gsr j) ∧
  (∀ (s : State) (cause : EndCause) (id : Byte),
    let d := gsrDevOf s.gsr id.toNat
    let e := gsrDevOf (demux cause s).gsr id.toNat
    (d.present = false → e = d) ∧
    (d.present = true →
      (∀ h p, scan (rxBytes s) false id = .packet h p → p.params.length = s.gsr.len.toNat →
        e = { d with slot := e.slot, valid := true, idres := .success, iderr := p.error } ∧
          slotBytes id.toNat e.slot s.gsr.len.toNat = p.params) ∧
      (∀ h, (scan (rxBytes s) false id = .incomplete h ∨ scan (rxBytes s) false id = .noHeader h) →
        (cause = .count → e = { d with valid := false, idres := .rxCorrupt }) ∧
        (cause = .timeout → e = { d with valid := false, idres := .rxTimeout }) ∧
        (cause = .readError → e = { d with valid := false, idres := .rxFail })) ∧
      (∀ (h : Nat) (u : State),
        (scan (rxBytes s) false id = .failed h ∨
          ∃ p, scan (rxBytes s) false id = .packet h p ∧ p.params.length ≠ s.gsr.len.toNat) →
        u.gsr = s.gsr → rxBytes u = (rxBytes s).drop (h + 1) →
          e = if (gsrDevOf (demux cause u).gsr id.toNat).idres = .success then gsrDevOf (demux cause u).gsr id.toNat
              else { d with valid := false, idres := .rxCorrupt }))) ∧
  (∀ (s : State) (cause : EndCause),
    ((demux cause s).code = .success ↔
      ∀ j, (gsrDevOf s.gsr j).present = true → (gsrDevOf (demux cause s).gsr j).idres = .success) ∧
    ((demux cause s).code ≠ .success →
      ∃ j, (gsrDevOf s.gsr j).present = true ∧ (gsrDevOf (demux cause s).gsr j).idres = (demux cause s).code ∧
        ∀ k, j < k → (gsrDevOf s.gsr k).present = true → (gsrDevOf (demux cause s).gsr k).idres = .success) ∧
    ((demux cause s).gsr.lastOk = true ↔ (demux cause s).code = .success) ∧
    ((demux cause s).gsr.phase = if (demux cause s).code = .success then .complete else .partialFailure)) ∧
  (∀ (s : State) (cause : EndCause),
    let t := demux cause s
    t = { s with code := t.code, busy := false, owner := .nobody, rxEnd := cause, active := none, timer := false,
                 gsr := t.gsr } ∧
    t.gsr = { s.gsr with devs := t.gsr.devs, phase := t.gsr.phase, lastOk := t.gsr.lastOk } ∧
    rxBytes t = rxBytes s ∧ (∀ a, byteOf t a = byteOf s a))

/-- R119, R120: GSR_IS_AVAILABLE and GSR_GET_VALUE, in unbounded integers. -/
def Obligations.GsrQueryResults : Prop :=
  ∀ (id address length : Byte) (s : State),
    let available := fun (n : Nat) =>
      id.toNat ≤ 0xFC ∧ (gsrDevOf s.gsr id.toNat).present = true ∧ (gsrDevOf s.gsr id.toNat).valid = true ∧
        1 ≤ n ∧ s.gsr.start.toNat ≤ address.toNat ∧ address.toNat + n ≤ s.gsr.start.toNat + s.gsr.len.toNat
    (available length.toNat → exec (.gsrIsAvailable id address length) s =
      .next { s with result := 1, code := .success, active := none }) ∧
    (¬ available length.toNat → exec (.gsrIsAvailable id address length) s =
      .next { s with result := 0, code := .success, active := none }) ∧
    (available 1 → ∃ b : Byte,
      (slotBytes id.toNat (gsrDevOf s.gsr id.toNat).slot s.gsr.len.toNat)[address.toNat - s.gsr.start.toNat]? = some b ∧
      exec (.gsrGetValue id address) s =
        .next { s with result := b.zeroExtend 32, code := .success, active := none }) ∧
    (¬ available 1 → exec (.gsrGetValue id address) s =
      .next { s with result := 0, code := .notAvailable, active := none })

/-- R121: GSR_ID_RESULT. -/
def Obligations.GsrIdResultResult : Prop :=
  ∀ (id : Byte) (s : State),
    ((0xFC < id.toNat ∨ (gsrDevOf s.gsr id.toNat).present = false) →
      exec (.gsrIdResult id) s = .next { s with result := 0, code := .notFound, active := none }) ∧
    ((gsrDevOf s.gsr id.toNat).present = true → ∃ r : Word,
      exec (.gsrIdResult id) s = .next { s with result := r, code := .success, active := none } ∧
      r.toNat = (codeByte (gsrDevOf s.gsr id.toNat).idres).toNat + 2 ^ 8 * (gsrDevOf s.gsr id.toNat).iderr.toNat +
        2 ^ 16 * (gsrDevOf s.gsr id.toNat).valid.toNat)

/-! ## The guard, reset and the whole machine (60_exceptions.md, 70_reset_and_hazards.md) -/

/-- R131, R144: while CODEC holds the guard only the end of a CODEC_RECEIVE frees it, while GSR holds it only the end of a GSR_RX
does, and reset. -/
def Obligations.GuardIsHeldUntilTheReceiveEnds : Prop :=
  ∀ s t : State, Sound s → step s = .next t → (∀ rest, s.inputs ≠ .reset :: rest) →
    (s.owner = .gsr → t.owner = .gsr ∨ ((∃ n, s.active = some (.gsrRx n)) ∧ t.active = none ∧ t.owner = .nobody)) ∧
    (s.owner = .codec → t.owner = .codec ∨
      ((∃ x any n, s.active = some (.codecReceive x any n)) ∧ t.active = none ∧ t.owner = .nobody))

/-- R11, R40, R85, R105, R113, R132, R133: what reaches the transport and what comes from it. The block calls TransportWrite only in
a step that launches CODEC_TRANSMIT, GSW_TRANSMIT or GSR_TXREQ, once, with the guard free before; a count equal to the frame's
length is Full, a smaller one is Short, an error is Error, and there is no other outcome; an arriving byte goes to the end of
RXQ and changes nothing else; while no receive is active no event reaches the block and RXQ keeps its bytes (that such an input
is in the list at all is the model's, log 3). -/
def Obligations.OnlyTransmitsWriteToTheBus : Prop :=
  (∀ s t : State, step s = .next t → t.transport.log ≠ s.transport.log →
    s.busy = false ∧ s.active = none ∧ (∃ f, t.transport.log = s.transport.log ++ [(f, nextOutcome f s)]) ∧
    ∃ w rest i, s.inputs = .write 0x000 4 w :: rest ∧ decode (.command w) = .ok i ∧
      ((∃ e, i = .codecTransmit e) ∨ i = .gswTransmit ∨ i = .gsrTxreq)) ∧
  (∀ (f : List Byte) (s : State),
    (nextAnswer s = .count f.length → nextOutcome f s = .full) ∧
    (∀ c, c < f.length → nextAnswer s = .count c → nextOutcome f s = .short c) ∧
    (nextAnswer s = .error → nextOutcome f s = .error) ∧
    (∀ c, nextOutcome f s = .short c → c < f.length)) ∧
  (∀ (s : State) (b : Byte) (rest : List Input), s.inputs = .arrive b :: rest →
    step s = .next { s with transport := { s.transport with rxq := s.transport.rxq ++ [b] }, inputs := rest }) ∧
  (∀ (s : State) (e : Input) (rest : List Input), s.active = none → s.inputs = e :: rest →
    (e = .deliver ∨ e = .readError ∨ e = .timeout) → step s = .next { s with inputs := rest })

/-- R133 "every receive ends" with the idle step of log 5: once the inputs are used up no receive is active. -/
def Obligations.EveryReceiveEnds : Prop :=
  ∀ s t : State, Sound s → Host.Core.run core (s.inputs.length + 1) s = .next t → t.active = none

/-- R140, R141: reset, in any state: the registers read as R141 lists them, nothing is active or present, no buffer byte is
written, and the transport keeps RXQ. -/
def Obligations.ResetLeavesTheResetValues : Prop :=
  ∀ (s : State) (rest : List Input), s.inputs = .reset :: rest →
    ∃ t, step s = .next t ∧ t.transport = s.transport ∧ t.inputs = rest ∧ t.active = none ∧ t.timer = false ∧
      t.mem = [] ∧ t.gsw.flat = [] ∧ t.gsr.flat = [] ∧
      memRead t 0x000 4 = 0 ∧ memRead t 0x004 4 = 0 ∧ memRead t 0x008 4 = 0 ∧ memRead t 0x00C 4 = 0 ∧
      memRead t 0x010 4 = 0 ∧ memRead t 0x014 4 = 0 ∧ memRead t 0x018 4 = 0 ∧ memRead t 0x01C 4 = 0x04000000 ∧
      memRead t 0x020 4 = 0x08000000 ∧
      (∀ j, (gswDevOf t.gsw j).present = false ∧ (gsrDevOf t.gsr j).present = false ∧
        (gsrDevOf t.gsr j).valid = false ∧ (gsrDevOf t.gsr j).idres = .notAvailable ∧ (gsrDevOf t.gsr j).iderr = 0)

/-- The reset state is sound (R141; Safety.lean). -/
def Obligations.ResetStateIsSound : Prop := Sound State.reset

/-- R18, R22, R23, R32, R35, R36, R87, R114: every step keeps a state sound: the memory's canonical form, the guard with its
owner, each engine's phase with its count and with the guard, FLAT with DIRTY, the timer and RxWaiting with the active
receive, the bounds of TX_LEN and RX_COUNT, so that RX_BUF never overflows, and R11's bound of a short write. -/
def Obligations.EveryStepKeepsSoundness : Prop :=
  ∀ s t : State, Sound s → step s = .next t → Sound t

/-- R47, R122 (log 3): a step stops only for the host's own fault: an illegal access (R46), or a packet input that is no wire
instruction. Every instruction of the table, in every state, answers a next state. -/
def Obligations.OnlyTheHostStopsTheMachine : Prop :=
  ∀ s : State,
    (∀ i : Instr, ∃ t, exec i s = .next t) ∧
    (∀ r, step s = .fault r → ∃ off n v rest, legalAccess off n = false ∧
      (s.inputs = .read off n :: rest ∨ s.inputs = .write off n v :: rest)) ∧
    (∀ r, step s = .refused r → ∃ f rest, s.inputs = .packet f :: rest ∧ ∀ i, decode (.packet f) ≠ .ok i)
end

