-- ==== Sys2Proof/Laws/Frame.lean ====
section
/-! SUPPORT. The frame builder and the scanner: the shape of a built frame, what each answer of the scanner says about the bytes, and
how a scan passes over bytes that start no candidate. -/

namespace Sys2Proof.Machine

/-- The bytes of a built frame (R57, R73). -/
theorem buildFrame_eq_some {id instr : Byte} {p f : List Byte} (h : buildFrame id instr p = some f) :
    p.length ≤ Config.maxParams ∧
      f = Config.headerByte :: Config.headerByte :: id :: BitVec.ofNat 8 (p.length + 2) :: instr ::
        (p ++ [checksum (id :: BitVec.ofNat 8 (p.length + 2) :: instr :: p)]) := by
  simp only [buildFrame, Config.maxFrame] at h
  split at h
  · cases h
  · injection h with h
    exact ⟨by simp only [Config.maxParams]; omega, by rw [← h]; simp⟩

/-- A frame is built exactly for at most MAX_PARAMS parameters (R60). -/
theorem buildFrame_isSome (id instr : Byte) (p : List Byte) :
    (buildFrame id instr p).isSome = decide (p.length ≤ Config.maxParams) := by
  simp only [buildFrame, Config.maxFrame, Config.maxParams]
  split
  · simp; omega
  · simp; omega

theorem buildFrame_eq_none (id instr : Byte) (p : List Byte) :
    buildFrame id instr p = none ↔ Config.maxParams < p.length := by
  have := buildFrame_isSome id instr p
  cases h : buildFrame id instr p <;> simp [h] at this ⊢ <;> omega

theorem buildFrame_length {id instr : Byte} {p f : List Byte} (h : buildFrame id instr p = some f) :
    f.length = p.length + 6 := by
  rw [(buildFrame_eq_some h).2]; simp

/-! ### The scanner -/

/-- What the checks on a candidate's body answer (R81). -/
theorem scanBody_cases (h : Nat) (id len : Byte) (body : List Byte) :
    (scanBody h id len body = .failed h) ∨
    (scanBody h id len body = .incomplete h ∧ body.length < len.toNat ∧ 2 ≤ len.toNat ∧ len.toNat ≤ 246) ∨
    (∃ p : Packet, scanBody h id len body = .packet h p ∧ p.id = id ∧ p.params.length + 2 = len.toNat ∧
      len.toNat ≤ 246 ∧ len.toNat ≤ body.length ∧
      body.take (p.params.length + 2) =
        p.error :: (p.params ++ [checksum (id :: len :: p.error :: p.params)])) := by
  unfold scanBody
  simp only [Config.rxFrameMax]
  split
  · exact .inl rfl
  · rename_i hl
    have hl2 : 2 ≤ len.toNat := by omega
    have hl3 : len.toNat ≤ 246 := by omega
    split
    · exact .inr (.inl ⟨rfl, ‹_›, hl2, hl3⟩)
    · split
      · exact .inl rfl
      · rename_i hb hc
        refine .inr (.inr ⟨_, rfl, rfl, ?_, hl3, by omega, ?_⟩)
        · simp only [List.length_drop, List.length_take]; omega
        · have hc' : body.getD (len.toNat - 1) 0 = checksum (id :: len :: body.take (len.toNat - 1)) := by
            simpa using hc
          obtain ⟨e, rest, rfl⟩ : ∃ e rest, body = e :: rest := by
            cases body with
            | nil => simp at hb; omega
            | cons e rest => exact ⟨e, rest, rfl⟩
          obtain ⟨m, hm⟩ : ∃ m, len.toNat = m + 2 := ⟨len.toNat - 2, by omega⟩
          simp only [hm, show m + 2 - 1 = m + 1 by omega, List.take_succ_cons, List.drop_succ_cons, List.drop_zero,
            List.length_cons, List.getD_cons_succ, List.getD_cons_zero] at hb hc' ⊢
          have hlen : (rest.take m).length = m := by rw [List.length_take]; omega
          rw [hlen, ← hc', List.getD_eq_getElem _ _ (by omega : m < rest.length)]
          congr 1
          exact (List.take_append_getElem (by omega : m < rest.length)).symm

/-- A byte that is no header byte starts no candidate (R81). -/
theorem scanFrom_skip (any : Bool) (x : Byte) (h : Nat) (b : Byte) (bs : List Byte) (hb : b ≠ Config.headerByte) :
    scanFrom any x h (b :: bs) = scanFrom any x (h + 1) bs := by
  simp only [scanFrom, scanAt, if_pos hb]

/-- Bytes without a header byte are passed over (R82). -/
theorem scanFrom_append (any : Bool) (x : Byte) (g bs : List Byte) (hg : ∀ b ∈ g, b ≠ Config.headerByte) (h : Nat) :
    scanFrom any x h (g ++ bs) = scanFrom any x (h + g.length) bs := by
  induction g generalizing h with
  | nil => simp
  | cons b g ih =>
    rw [List.cons_append, scanFrom_skip _ _ _ _ _ (hg b List.mem_cons_self),
      ih (fun c hc => hg c (List.mem_cons_of_mem _ hc))]
    congr 1
    simp only [List.length_cons]; omega

/-- What one pass of the loop answers (R81). -/
theorem scanAt_cases (any : Bool) (x : Byte) (h : Nat) (b : List Byte) :
    scanAt any x h b = none ∨
    (scanAt any x h b = some (.incomplete h) ∧ 1 ≤ b.length ∧ b.length ≤ 3) ∨
    (∃ id len body, b = Config.headerByte :: Config.headerByte :: id :: len :: body ∧ (any = true ∨ id = x) ∧
      scanAt any x h b = some (scanBody h id len body)) := by
  rcases b with _ | ⟨b0, _ | ⟨b1, _ | ⟨id, _ | ⟨len, body⟩⟩⟩⟩ <;> simp only [scanAt]
  · exact .inl trivial
  · split
    · exact .inl rfl
    · exact .inr (.inl ⟨rfl, by simp, by simp⟩)
  · split
    · exact .inl rfl
    · split
      · exact .inl rfl
      · exact .inr (.inl ⟨rfl, by simp, by simp⟩)
  · split
    · exact .inl rfl
    · split
      · exact .inl rfl
      · split
        · exact .inl rfl
        · exact .inr (.inl ⟨rfl, by simp, by simp⟩)
  · split
    · exact .inl rfl
    · rename_i h0
      split
      · exact .inl rfl
      · rename_i h1
        split
        · exact .inl rfl
        · rename_i h2
          have h0 : b0 = Config.headerByte := by simpa using h0
          have h1 : b1 = Config.headerByte := by simpa using h1
          refine .inr (.inr ⟨id, len, body, by rw [h0, h1], ?_, rfl⟩)
          cases any
          · exact .inr (by simpa using h2)
          · exact .inl rfl

/-- What a scan answers, each answer with what it says of the bytes (R81, R82). -/
theorem scanFrom_cases (any : Bool) (x : Byte) (h : Nat) (b : List Byte) :
    (scanFrom any x h b = .noHeader (h + b.length)) ∨
    (∃ j, j < b.length ∧ scanFrom any x h b = .failed (h + j)) ∨
    (∃ j, j < b.length ∧ scanFrom any x h b = .incomplete (h + j) ∧ b.length < j + Config.rxFrameMax) ∨
    (∃ j p, scanFrom any x h b = .packet (h + j) p ∧ (any = true ∨ p.id = x) ∧
      p.params.length ≤ Config.maxParams ∧ j + p.params.length + 6 ≤ b.length ∧
      (b.drop j).take (p.params.length + 6) =
        Config.headerByte :: Config.headerByte :: p.id :: BitVec.ofNat 8 (p.params.length + 2) :: p.error ::
          (p.params ++ [checksum (p.id :: BitVec.ofNat 8 (p.params.length + 2) :: p.error :: p.params)])) := by
  induction b generalizing h with
  | nil => exact .inl rfl
  | cons c bs ih =>
    have hstep : scanFrom any x h (c :: bs) =
        match scanAt any x h (c :: bs) with
        | some r => r
        | none => scanFrom any x (h + 1) bs := rfl
    rcases scanAt_cases any x h (c :: bs) with hn | ⟨hi, _, hl⟩ | ⟨id, len, body, hb, hx, hr⟩
    · rw [hn] at hstep
      simp only at hstep
      rw [hstep]
      rcases ih (h + 1) with h1 | ⟨j, hj, h1⟩ | ⟨j, hj, h1, h2⟩ | ⟨j, p, h1, h2, h3, h4, h5⟩
      · exact .inl (by rw [h1]; congr 1; simp only [List.length_cons]; omega)
      · exact .inr (.inl ⟨j + 1, by simpa using hj, by rw [h1]; congr 1; omega⟩)
      · exact .inr (.inr (.inl ⟨j + 1, by simpa using hj, by rw [h1]; congr 1; omega, by
          simp only [List.length_cons]; omega⟩))
      · exact .inr (.inr (.inr ⟨j + 1, p, by rw [h1]; congr 1; omega, h2, h3, by
          simp only [List.length_cons]; omega, by simpa using h5⟩))
    · rw [hi] at hstep
      simp only at hstep
      exact .inr (.inr (.inl ⟨0, by simp, hstep, by simp only [Config.rxFrameMax]; omega⟩))
    · rw [hr] at hstep
      simp only at hstep
      rw [hstep]
      rcases scanBody_cases h id len body with hs | ⟨hs, h1, h2, h3⟩ | ⟨p, hs, h1, h2, h3, h4, h5⟩
      · exact .inr (.inl ⟨0, by simp, hs⟩)
      · refine .inr (.inr (.inl ⟨0, by simp, hs, ?_⟩))
        rw [hb]; simp only [List.length_cons, Config.rxFrameMax]; omega
      · have hlen : BitVec.ofNat 8 (p.params.length + 2) = len := by
          rw [h2]; simp
        refine .inr (.inr (.inr ⟨0, p, hs, by rw [h1]; exact hx, by simp only [Config.maxParams]; omega, ?_, ?_⟩))
        · rw [hb]; simp only [List.length_cons]; omega
        · rw [hb, hlen, h1]
          simp only [List.drop_zero, List.take_succ_cons, h5]

theorem scan_cases (b : List Byte) (any : Bool) (x : Byte) :
    (scan b any x = .noHeader b.length) ∨
    (∃ j, j < b.length ∧ scan b any x = .failed j) ∨
    (∃ j, j < b.length ∧ scan b any x = .incomplete j ∧ b.length < j + Config.rxFrameMax) ∨
    (∃ j p, scan b any x = .packet j p ∧ (any = true ∨ p.id = x) ∧
      p.params.length ≤ Config.maxParams ∧ j + p.params.length + 6 ≤ b.length ∧
      (b.drop j).take (p.params.length + 6) =
        Config.headerByte :: Config.headerByte :: p.id :: BitVec.ofNat 8 (p.params.length + 2) :: p.error ::
          (p.params ++ [checksum (p.id :: BitVec.ofNat 8 (p.params.length + 2) :: p.error :: p.params)])) := by
  simpa [scan] using scanFrom_cases any x 0 b

end Sys2Proof.Machine
end

