-- ==== Sys2Proof/Laws/State.lean ====
section
/-! SUPPORT. One lemma for each field of the state after each named update: what the update writes, and every other field
unchanged. No later proof unfolds a record update. -/

namespace Sys2Proof.Machine

/-! ### `finish` -/

@[simp] theorem finish_code (c : ResultCode) (s : State) : (finish c s).code = c := rfl
@[simp] theorem finish_busy (c : ResultCode) (s : State) : (finish c s).busy = s.busy := rfl
@[simp] theorem finish_owner (c : ResultCode) (s : State) : (finish c s).owner = s.owner := rfl
@[simp] theorem finish_overrun (c : ResultCode) (s : State) : (finish c s).overrun = s.overrun := rfl
@[simp] theorem finish_pktValid (c : ResultCode) (s : State) : (finish c s).pktValid = s.pktValid := rfl
@[simp] theorem finish_opa (c : ResultCode) (s : State) : (finish c s).opa = s.opa := rfl
@[simp] theorem finish_result (c : ResultCode) (s : State) : (finish c s).result = s.result := rfl
@[simp] theorem finish_pktInfo (c : ResultCode) (s : State) : (finish c s).pktInfo = s.pktInfo := rfl
@[simp] theorem finish_txLen (c : ResultCode) (s : State) : (finish c s).txLen = s.txLen := rfl
@[simp] theorem finish_rxCount (c : ResultCode) (s : State) : (finish c s).rxCount = s.rxCount := rfl
@[simp] theorem finish_rxEnd (c : ResultCode) (s : State) : (finish c s).rxEnd = s.rxEnd := rfl
@[simp] theorem finish_mem (c : ResultCode) (s : State) : (finish c s).mem = s.mem := rfl
@[simp] theorem finish_gsw (c : ResultCode) (s : State) : (finish c s).gsw = s.gsw := rfl
@[simp] theorem finish_gsr (c : ResultCode) (s : State) : (finish c s).gsr = s.gsr := rfl
@[simp] theorem finish_active (c : ResultCode) (s : State) : (finish c s).active = none := rfl
@[simp] theorem finish_timer (c : ResultCode) (s : State) : (finish c s).timer = s.timer := rfl
@[simp] theorem finish_transport (c : ResultCode) (s : State) : (finish c s).transport = s.transport := rfl
@[simp] theorem finish_busData (c : ResultCode) (s : State) : (finish c s).busData = s.busData := rfl
@[simp] theorem finish_resets (c : ResultCode) (s : State) : (finish c s).resets = s.resets := rfl
@[simp] theorem finish_inputs (c : ResultCode) (s : State) : (finish c s).inputs = s.inputs := rfl

/-! ### `dropCommand` -/

@[simp] theorem dropCommand_code (s : State) : (dropCommand s).code = s.code := rfl
@[simp] theorem dropCommand_busy (s : State) : (dropCommand s).busy = s.busy := rfl
@[simp] theorem dropCommand_owner (s : State) : (dropCommand s).owner = s.owner := rfl
@[simp] theorem dropCommand_overrun (s : State) : (dropCommand s).overrun = true := rfl
@[simp] theorem dropCommand_pktValid (s : State) : (dropCommand s).pktValid = s.pktValid := rfl
@[simp] theorem dropCommand_opa (s : State) : (dropCommand s).opa = s.opa := rfl
@[simp] theorem dropCommand_result (s : State) : (dropCommand s).result = s.result := rfl
@[simp] theorem dropCommand_pktInfo (s : State) : (dropCommand s).pktInfo = s.pktInfo := rfl
@[simp] theorem dropCommand_txLen (s : State) : (dropCommand s).txLen = s.txLen := rfl
@[simp] theorem dropCommand_rxCount (s : State) : (dropCommand s).rxCount = s.rxCount := rfl
@[simp] theorem dropCommand_rxEnd (s : State) : (dropCommand s).rxEnd = s.rxEnd := rfl
@[simp] theorem dropCommand_mem (s : State) : (dropCommand s).mem = s.mem := rfl
@[simp] theorem dropCommand_gsw (s : State) : (dropCommand s).gsw = s.gsw := rfl
@[simp] theorem dropCommand_gsr (s : State) : (dropCommand s).gsr = s.gsr := rfl
@[simp] theorem dropCommand_active (s : State) : (dropCommand s).active = s.active := rfl
@[simp] theorem dropCommand_timer (s : State) : (dropCommand s).timer = s.timer := rfl
@[simp] theorem dropCommand_transport (s : State) : (dropCommand s).transport = s.transport := rfl
@[simp] theorem dropCommand_busData (s : State) : (dropCommand s).busData = s.busData := rfl
@[simp] theorem dropCommand_resets (s : State) : (dropCommand s).resets = s.resets := rfl
@[simp] theorem dropCommand_inputs (s : State) : (dropCommand s).inputs = s.inputs := rfl

/-! ### `finishWith` -/

@[simp] theorem finishWith_code (r : Word) (c : ResultCode) (s : State) : (finishWith r c s).code = c := rfl
@[simp] theorem finishWith_busy (r : Word) (c : ResultCode) (s : State) : (finishWith r c s).busy = s.busy := rfl
@[simp] theorem finishWith_owner (r : Word) (c : ResultCode) (s : State) : (finishWith r c s).owner = s.owner := rfl
@[simp] theorem finishWith_overrun (r : Word) (c : ResultCode) (s : State) : (finishWith r c s).overrun = s.overrun := rfl
@[simp] theorem finishWith_pktValid (r : Word) (c : ResultCode) (s : State) : (finishWith r c s).pktValid = s.pktValid := rfl
@[simp] theorem finishWith_opa (r : Word) (c : ResultCode) (s : State) : (finishWith r c s).opa = s.opa := rfl
@[simp] theorem finishWith_result (r : Word) (c : ResultCode) (s : State) : (finishWith r c s).result = r := rfl
@[simp] theorem finishWith_pktInfo (r : Word) (c : ResultCode) (s : State) : (finishWith r c s).pktInfo = s.pktInfo := rfl
@[simp] theorem finishWith_txLen (r : Word) (c : ResultCode) (s : State) : (finishWith r c s).txLen = s.txLen := rfl
@[simp] theorem finishWith_rxCount (r : Word) (c : ResultCode) (s : State) : (finishWith r c s).rxCount = s.rxCount := rfl
@[simp] theorem finishWith_rxEnd (r : Word) (c : ResultCode) (s : State) : (finishWith r c s).rxEnd = s.rxEnd := rfl
@[simp] theorem finishWith_mem (r : Word) (c : ResultCode) (s : State) : (finishWith r c s).mem = s.mem := rfl
@[simp] theorem finishWith_gsw (r : Word) (c : ResultCode) (s : State) : (finishWith r c s).gsw = s.gsw := rfl
@[simp] theorem finishWith_gsr (r : Word) (c : ResultCode) (s : State) : (finishWith r c s).gsr = s.gsr := rfl
@[simp] theorem finishWith_active (r : Word) (c : ResultCode) (s : State) : (finishWith r c s).active = none := rfl
@[simp] theorem finishWith_timer (r : Word) (c : ResultCode) (s : State) : (finishWith r c s).timer = s.timer := rfl
@[simp] theorem finishWith_transport (r : Word) (c : ResultCode) (s : State) : (finishWith r c s).transport = s.transport := rfl
@[simp] theorem finishWith_busData (r : Word) (c : ResultCode) (s : State) : (finishWith r c s).busData = s.busData := rfl
@[simp] theorem finishWith_resets (r : Word) (c : ResultCode) (s : State) : (finishWith r c s).resets = s.resets := rfl
@[simp] theorem finishWith_inputs (r : Word) (c : ResultCode) (s : State) : (finishWith r c s).inputs = s.inputs := rfl

/-! ### `acquire` -/

@[simp] theorem acquire_code (o : Owner) (s : State) : (acquire o s).code = s.code := rfl
@[simp] theorem acquire_busy (o : Owner) (s : State) : (acquire o s).busy = true := rfl
@[simp] theorem acquire_owner (o : Owner) (s : State) : (acquire o s).owner = o := rfl
@[simp] theorem acquire_overrun (o : Owner) (s : State) : (acquire o s).overrun = s.overrun := rfl
@[simp] theorem acquire_pktValid (o : Owner) (s : State) : (acquire o s).pktValid = s.pktValid := rfl
@[simp] theorem acquire_opa (o : Owner) (s : State) : (acquire o s).opa = s.opa := rfl
@[simp] theorem acquire_result (o : Owner) (s : State) : (acquire o s).result = s.result := rfl
@[simp] theorem acquire_pktInfo (o : Owner) (s : State) : (acquire o s).pktInfo = s.pktInfo := rfl
@[simp] theorem acquire_txLen (o : Owner) (s : State) : (acquire o s).txLen = s.txLen := rfl
@[simp] theorem acquire_rxCount (o : Owner) (s : State) : (acquire o s).rxCount = s.rxCount := rfl
@[simp] theorem acquire_rxEnd (o : Owner) (s : State) : (acquire o s).rxEnd = s.rxEnd := rfl
@[simp] theorem acquire_mem (o : Owner) (s : State) : (acquire o s).mem = s.mem := rfl
@[simp] theorem acquire_gsw (o : Owner) (s : State) : (acquire o s).gsw = s.gsw := rfl
@[simp] theorem acquire_gsr (o : Owner) (s : State) : (acquire o s).gsr = s.gsr := rfl
@[simp] theorem acquire_active (o : Owner) (s : State) : (acquire o s).active = s.active := rfl
@[simp] theorem acquire_timer (o : Owner) (s : State) : (acquire o s).timer = s.timer := rfl
@[simp] theorem acquire_transport (o : Owner) (s : State) : (acquire o s).transport = s.transport := rfl
@[simp] theorem acquire_busData (o : Owner) (s : State) : (acquire o s).busData = s.busData := rfl
@[simp] theorem acquire_resets (o : Owner) (s : State) : (acquire o s).resets = s.resets := rfl
@[simp] theorem acquire_inputs (o : Owner) (s : State) : (acquire o s).inputs = s.inputs := rfl

/-! ### `release` -/

@[simp] theorem release_code (s : State) : (release s).code = s.code := rfl
@[simp] theorem release_busy (s : State) : (release s).busy = false := rfl
@[simp] theorem release_owner (s : State) : (release s).owner = .nobody := rfl
@[simp] theorem release_overrun (s : State) : (release s).overrun = s.overrun := rfl
@[simp] theorem release_pktValid (s : State) : (release s).pktValid = s.pktValid := rfl
@[simp] theorem release_opa (s : State) : (release s).opa = s.opa := rfl
@[simp] theorem release_result (s : State) : (release s).result = s.result := rfl
@[simp] theorem release_pktInfo (s : State) : (release s).pktInfo = s.pktInfo := rfl
@[simp] theorem release_txLen (s : State) : (release s).txLen = s.txLen := rfl
@[simp] theorem release_rxCount (s : State) : (release s).rxCount = s.rxCount := rfl
@[simp] theorem release_rxEnd (s : State) : (release s).rxEnd = s.rxEnd := rfl
@[simp] theorem release_mem (s : State) : (release s).mem = s.mem := rfl
@[simp] theorem release_gsw (s : State) : (release s).gsw = s.gsw := rfl
@[simp] theorem release_gsr (s : State) : (release s).gsr = s.gsr := rfl
@[simp] theorem release_active (s : State) : (release s).active = s.active := rfl
@[simp] theorem release_timer (s : State) : (release s).timer = s.timer := rfl
@[simp] theorem release_transport (s : State) : (release s).transport = s.transport := rfl
@[simp] theorem release_busData (s : State) : (release s).busData = s.busData := rfl
@[simp] theorem release_resets (s : State) : (release s).resets = s.resets := rfl
@[simp] theorem release_inputs (s : State) : (release s).inputs = s.inputs := rfl

/-! ### `storeBytes` -/

@[simp] theorem storeBytes_code (off : Nat) (bs : List Byte) (s : State) : (storeBytes off bs s).code = s.code := rfl
@[simp] theorem storeBytes_busy (off : Nat) (bs : List Byte) (s : State) : (storeBytes off bs s).busy = s.busy := rfl
@[simp] theorem storeBytes_owner (off : Nat) (bs : List Byte) (s : State) : (storeBytes off bs s).owner = s.owner := rfl
@[simp] theorem storeBytes_overrun (off : Nat) (bs : List Byte) (s : State) : (storeBytes off bs s).overrun = s.overrun := rfl
@[simp] theorem storeBytes_pktValid (off : Nat) (bs : List Byte) (s : State) : (storeBytes off bs s).pktValid = s.pktValid := rfl
@[simp] theorem storeBytes_opa (off : Nat) (bs : List Byte) (s : State) : (storeBytes off bs s).opa = s.opa := rfl
@[simp] theorem storeBytes_result (off : Nat) (bs : List Byte) (s : State) : (storeBytes off bs s).result = s.result := rfl
@[simp] theorem storeBytes_pktInfo (off : Nat) (bs : List Byte) (s : State) : (storeBytes off bs s).pktInfo = s.pktInfo := rfl
@[simp] theorem storeBytes_txLen (off : Nat) (bs : List Byte) (s : State) : (storeBytes off bs s).txLen = s.txLen := rfl
@[simp] theorem storeBytes_rxCount (off : Nat) (bs : List Byte) (s : State) : (storeBytes off bs s).rxCount = s.rxCount := rfl
@[simp] theorem storeBytes_rxEnd (off : Nat) (bs : List Byte) (s : State) : (storeBytes off bs s).rxEnd = s.rxEnd := rfl
@[simp] theorem storeBytes_mem (off : Nat) (bs : List Byte) (s : State) : (storeBytes off bs s).mem = Memory.storeAll off bs s.mem := rfl
@[simp] theorem storeBytes_gsw (off : Nat) (bs : List Byte) (s : State) : (storeBytes off bs s).gsw = s.gsw := rfl
@[simp] theorem storeBytes_gsr (off : Nat) (bs : List Byte) (s : State) : (storeBytes off bs s).gsr = s.gsr := rfl
@[simp] theorem storeBytes_active (off : Nat) (bs : List Byte) (s : State) : (storeBytes off bs s).active = s.active := rfl
@[simp] theorem storeBytes_timer (off : Nat) (bs : List Byte) (s : State) : (storeBytes off bs s).timer = s.timer := rfl
@[simp] theorem storeBytes_transport (off : Nat) (bs : List Byte) (s : State) : (storeBytes off bs s).transport = s.transport := rfl
@[simp] theorem storeBytes_busData (off : Nat) (bs : List Byte) (s : State) : (storeBytes off bs s).busData = s.busData := rfl
@[simp] theorem storeBytes_resets (off : Nat) (bs : List Byte) (s : State) : (storeBytes off bs s).resets = s.resets := rfl
@[simp] theorem storeBytes_inputs (off : Nat) (bs : List Byte) (s : State) : (storeBytes off bs s).inputs = s.inputs := rfl

/-! ### `loadFrame` -/

@[simp] theorem loadFrame_code (f : List Byte) (s : State) : (loadFrame f s).code = s.code := rfl
@[simp] theorem loadFrame_busy (f : List Byte) (s : State) : (loadFrame f s).busy = s.busy := rfl
@[simp] theorem loadFrame_owner (f : List Byte) (s : State) : (loadFrame f s).owner = s.owner := rfl
@[simp] theorem loadFrame_overrun (f : List Byte) (s : State) : (loadFrame f s).overrun = s.overrun := rfl
@[simp] theorem loadFrame_pktValid (f : List Byte) (s : State) : (loadFrame f s).pktValid = s.pktValid := rfl
@[simp] theorem loadFrame_opa (f : List Byte) (s : State) : (loadFrame f s).opa = s.opa := rfl
@[simp] theorem loadFrame_result (f : List Byte) (s : State) : (loadFrame f s).result = s.result := rfl
@[simp] theorem loadFrame_pktInfo (f : List Byte) (s : State) : (loadFrame f s).pktInfo = s.pktInfo := rfl
@[simp] theorem loadFrame_txLen (f : List Byte) (s : State) : (loadFrame f s).txLen = BitVec.ofNat 8 f.length := rfl
@[simp] theorem loadFrame_rxCount (f : List Byte) (s : State) : (loadFrame f s).rxCount = s.rxCount := rfl
@[simp] theorem loadFrame_rxEnd (f : List Byte) (s : State) : (loadFrame f s).rxEnd = s.rxEnd := rfl
@[simp] theorem loadFrame_mem (f : List Byte) (s : State) : (loadFrame f s).mem = Memory.storeAll txBase f s.mem := rfl
@[simp] theorem loadFrame_gsw (f : List Byte) (s : State) : (loadFrame f s).gsw = s.gsw := rfl
@[simp] theorem loadFrame_gsr (f : List Byte) (s : State) : (loadFrame f s).gsr = s.gsr := rfl
@[simp] theorem loadFrame_active (f : List Byte) (s : State) : (loadFrame f s).active = s.active := rfl
@[simp] theorem loadFrame_timer (f : List Byte) (s : State) : (loadFrame f s).timer = s.timer := rfl
@[simp] theorem loadFrame_transport (f : List Byte) (s : State) : (loadFrame f s).transport = s.transport := rfl
@[simp] theorem loadFrame_busData (f : List Byte) (s : State) : (loadFrame f s).busData = s.busData := rfl
@[simp] theorem loadFrame_resets (f : List Byte) (s : State) : (loadFrame f s).resets = s.resets := rfl
@[simp] theorem loadFrame_inputs (f : List Byte) (s : State) : (loadFrame f s).inputs = s.inputs := rfl

/-! ### `clearFrame` -/

@[simp] theorem clearFrame_code (s : State) : (clearFrame s).code = s.code := rfl
@[simp] theorem clearFrame_busy (s : State) : (clearFrame s).busy = s.busy := rfl
@[simp] theorem clearFrame_owner (s : State) : (clearFrame s).owner = s.owner := rfl
@[simp] theorem clearFrame_overrun (s : State) : (clearFrame s).overrun = s.overrun := rfl
@[simp] theorem clearFrame_pktValid (s : State) : (clearFrame s).pktValid = s.pktValid := rfl
@[simp] theorem clearFrame_opa (s : State) : (clearFrame s).opa = s.opa := rfl
@[simp] theorem clearFrame_result (s : State) : (clearFrame s).result = s.result := rfl
@[simp] theorem clearFrame_pktInfo (s : State) : (clearFrame s).pktInfo = s.pktInfo := rfl
@[simp] theorem clearFrame_txLen (s : State) : (clearFrame s).txLen = 0 := rfl
@[simp] theorem clearFrame_rxCount (s : State) : (clearFrame s).rxCount = s.rxCount := rfl
@[simp] theorem clearFrame_rxEnd (s : State) : (clearFrame s).rxEnd = s.rxEnd := rfl
@[simp] theorem clearFrame_mem (s : State) : (clearFrame s).mem = s.mem := rfl
@[simp] theorem clearFrame_gsw (s : State) : (clearFrame s).gsw = s.gsw := rfl
@[simp] theorem clearFrame_gsr (s : State) : (clearFrame s).gsr = s.gsr := rfl
@[simp] theorem clearFrame_active (s : State) : (clearFrame s).active = s.active := rfl
@[simp] theorem clearFrame_timer (s : State) : (clearFrame s).timer = s.timer := rfl
@[simp] theorem clearFrame_transport (s : State) : (clearFrame s).transport = s.transport := rfl
@[simp] theorem clearFrame_busData (s : State) : (clearFrame s).busData = s.busData := rfl
@[simp] theorem clearFrame_resets (s : State) : (clearFrame s).resets = s.resets := rfl
@[simp] theorem clearFrame_inputs (s : State) : (clearFrame s).inputs = s.inputs := rfl

/-! ### `storeParams` -/

@[simp] theorem storeParams_code (bs : List Byte) (s : State) : (storeParams bs s).code = s.code := rfl
@[simp] theorem storeParams_busy (bs : List Byte) (s : State) : (storeParams bs s).busy = s.busy := rfl
@[simp] theorem storeParams_owner (bs : List Byte) (s : State) : (storeParams bs s).owner = s.owner := rfl
@[simp] theorem storeParams_overrun (bs : List Byte) (s : State) : (storeParams bs s).overrun = s.overrun := rfl
@[simp] theorem storeParams_pktValid (bs : List Byte) (s : State) : (storeParams bs s).pktValid = s.pktValid := rfl
@[simp] theorem storeParams_opa (bs : List Byte) (s : State) : (storeParams bs s).opa = s.opa := rfl
@[simp] theorem storeParams_result (bs : List Byte) (s : State) : (storeParams bs s).result = s.result := rfl
@[simp] theorem storeParams_pktInfo (bs : List Byte) (s : State) : (storeParams bs s).pktInfo = s.pktInfo := rfl
@[simp] theorem storeParams_txLen (bs : List Byte) (s : State) : (storeParams bs s).txLen = s.txLen := rfl
@[simp] theorem storeParams_rxCount (bs : List Byte) (s : State) : (storeParams bs s).rxCount = s.rxCount := rfl
@[simp] theorem storeParams_rxEnd (bs : List Byte) (s : State) : (storeParams bs s).rxEnd = s.rxEnd := rfl
@[simp] theorem storeParams_mem (bs : List Byte) (s : State) : (storeParams bs s).mem = Memory.storeAll paramBase (bs.take Config.paramBufSize) s.mem := rfl
@[simp] theorem storeParams_gsw (bs : List Byte) (s : State) : (storeParams bs s).gsw = s.gsw := rfl
@[simp] theorem storeParams_gsr (bs : List Byte) (s : State) : (storeParams bs s).gsr = s.gsr := rfl
@[simp] theorem storeParams_active (bs : List Byte) (s : State) : (storeParams bs s).active = s.active := rfl
@[simp] theorem storeParams_timer (bs : List Byte) (s : State) : (storeParams bs s).timer = s.timer := rfl
@[simp] theorem storeParams_transport (bs : List Byte) (s : State) : (storeParams bs s).transport = s.transport := rfl
@[simp] theorem storeParams_busData (bs : List Byte) (s : State) : (storeParams bs s).busData = s.busData := rfl
@[simp] theorem storeParams_resets (bs : List Byte) (s : State) : (storeParams bs s).resets = s.resets := rfl
@[simp] theorem storeParams_inputs (bs : List Byte) (s : State) : (storeParams bs s).inputs = s.inputs := rfl

/-! ### `appendRx` -/

@[simp] theorem appendRx_code (v : Byte) (s : State) : (appendRx v s).code = s.code := rfl
@[simp] theorem appendRx_busy (v : Byte) (s : State) : (appendRx v s).busy = s.busy := rfl
@[simp] theorem appendRx_owner (v : Byte) (s : State) : (appendRx v s).owner = s.owner := rfl
@[simp] theorem appendRx_overrun (v : Byte) (s : State) : (appendRx v s).overrun = s.overrun := rfl
@[simp] theorem appendRx_pktValid (v : Byte) (s : State) : (appendRx v s).pktValid = s.pktValid := rfl
@[simp] theorem appendRx_opa (v : Byte) (s : State) : (appendRx v s).opa = s.opa := rfl
@[simp] theorem appendRx_result (v : Byte) (s : State) : (appendRx v s).result = s.result := rfl
@[simp] theorem appendRx_pktInfo (v : Byte) (s : State) : (appendRx v s).pktInfo = s.pktInfo := rfl
@[simp] theorem appendRx_txLen (v : Byte) (s : State) : (appendRx v s).txLen = s.txLen := rfl
@[simp] theorem appendRx_rxCount (v : Byte) (s : State) : (appendRx v s).rxCount = s.rxCount + 1 := rfl
@[simp] theorem appendRx_rxEnd (v : Byte) (s : State) : (appendRx v s).rxEnd = s.rxEnd := rfl
@[simp] theorem appendRx_mem (v : Byte) (s : State) : (appendRx v s).mem = Memory.storeAll (rxBase + s.rxCount.toNat) [v] s.mem := rfl
@[simp] theorem appendRx_gsw (v : Byte) (s : State) : (appendRx v s).gsw = s.gsw := rfl
@[simp] theorem appendRx_gsr (v : Byte) (s : State) : (appendRx v s).gsr = s.gsr := rfl
@[simp] theorem appendRx_active (v : Byte) (s : State) : (appendRx v s).active = s.active := rfl
@[simp] theorem appendRx_timer (v : Byte) (s : State) : (appendRx v s).timer = s.timer := rfl
@[simp] theorem appendRx_transport (v : Byte) (s : State) : (appendRx v s).transport = s.transport := rfl
@[simp] theorem appendRx_busData (v : Byte) (s : State) : (appendRx v s).busData = s.busData := rfl
@[simp] theorem appendRx_resets (v : Byte) (s : State) : (appendRx v s).resets = s.resets := rfl
@[simp] theorem appendRx_inputs (v : Byte) (s : State) : (appendRx v s).inputs = s.inputs := rfl

/-! ### `compactRx` -/

@[simp] theorem compactRx_code (c : Nat) (s : State) : (compactRx c s).code = s.code := rfl
@[simp] theorem compactRx_busy (c : Nat) (s : State) : (compactRx c s).busy = s.busy := rfl
@[simp] theorem compactRx_owner (c : Nat) (s : State) : (compactRx c s).owner = s.owner := rfl
@[simp] theorem compactRx_overrun (c : Nat) (s : State) : (compactRx c s).overrun = s.overrun := rfl
@[simp] theorem compactRx_pktValid (c : Nat) (s : State) : (compactRx c s).pktValid = s.pktValid := rfl
@[simp] theorem compactRx_opa (c : Nat) (s : State) : (compactRx c s).opa = s.opa := rfl
@[simp] theorem compactRx_result (c : Nat) (s : State) : (compactRx c s).result = s.result := rfl
@[simp] theorem compactRx_pktInfo (c : Nat) (s : State) : (compactRx c s).pktInfo = s.pktInfo := rfl
@[simp] theorem compactRx_txLen (c : Nat) (s : State) : (compactRx c s).txLen = s.txLen := rfl
@[simp] theorem compactRx_rxCount (c : Nat) (s : State) : (compactRx c s).rxCount = BitVec.ofNat 16 (s.rxCount.toNat - c) := rfl
@[simp] theorem compactRx_rxEnd (c : Nat) (s : State) : (compactRx c s).rxEnd = s.rxEnd := rfl
@[simp] theorem compactRx_mem (c : Nat) (s : State) : (compactRx c s).mem = Memory.storeAll rxBase ((rxBytes s).drop c) s.mem := rfl
@[simp] theorem compactRx_gsw (c : Nat) (s : State) : (compactRx c s).gsw = s.gsw := rfl
@[simp] theorem compactRx_gsr (c : Nat) (s : State) : (compactRx c s).gsr = s.gsr := rfl
@[simp] theorem compactRx_active (c : Nat) (s : State) : (compactRx c s).active = s.active := rfl
@[simp] theorem compactRx_timer (c : Nat) (s : State) : (compactRx c s).timer = s.timer := rfl
@[simp] theorem compactRx_transport (c : Nat) (s : State) : (compactRx c s).transport = s.transport := rfl
@[simp] theorem compactRx_busData (c : Nat) (s : State) : (compactRx c s).busData = s.busData := rfl
@[simp] theorem compactRx_resets (c : Nat) (s : State) : (compactRx c s).resets = s.resets := rfl
@[simp] theorem compactRx_inputs (c : Nat) (s : State) : (compactRx c s).inputs = s.inputs := rfl

/-! ### `putPacket` -/

@[simp] theorem putPacket_code (p : Packet) (s : State) : (putPacket p s).code = s.code := rfl
@[simp] theorem putPacket_busy (p : Packet) (s : State) : (putPacket p s).busy = s.busy := rfl
@[simp] theorem putPacket_owner (p : Packet) (s : State) : (putPacket p s).owner = s.owner := rfl
@[simp] theorem putPacket_overrun (p : Packet) (s : State) : (putPacket p s).overrun = s.overrun := rfl
@[simp] theorem putPacket_pktValid (p : Packet) (s : State) : (putPacket p s).pktValid = true := rfl
@[simp] theorem putPacket_opa (p : Packet) (s : State) : (putPacket p s).opa = s.opa := rfl
@[simp] theorem putPacket_result (p : Packet) (s : State) : (putPacket p s).result = s.result := rfl
@[simp] theorem putPacket_pktInfo (p : Packet) (s : State) : (putPacket p s).pktInfo = PktInfo.mk p.id p.error (BitVec.ofNat 8 p.params.length) := rfl
@[simp] theorem putPacket_txLen (p : Packet) (s : State) : (putPacket p s).txLen = s.txLen := rfl
@[simp] theorem putPacket_rxCount (p : Packet) (s : State) : (putPacket p s).rxCount = s.rxCount := rfl
@[simp] theorem putPacket_rxEnd (p : Packet) (s : State) : (putPacket p s).rxEnd = s.rxEnd := rfl
@[simp] theorem putPacket_mem (p : Packet) (s : State) : (putPacket p s).mem = Memory.storeAll pktBase p.params s.mem := rfl
@[simp] theorem putPacket_gsw (p : Packet) (s : State) : (putPacket p s).gsw = s.gsw := rfl
@[simp] theorem putPacket_gsr (p : Packet) (s : State) : (putPacket p s).gsr = s.gsr := rfl
@[simp] theorem putPacket_active (p : Packet) (s : State) : (putPacket p s).active = s.active := rfl
@[simp] theorem putPacket_timer (p : Packet) (s : State) : (putPacket p s).timer = s.timer := rfl
@[simp] theorem putPacket_transport (p : Packet) (s : State) : (putPacket p s).transport = s.transport := rfl
@[simp] theorem putPacket_busData (p : Packet) (s : State) : (putPacket p s).busData = s.busData := rfl
@[simp] theorem putPacket_resets (p : Packet) (s : State) : (putPacket p s).resets = s.resets := rfl
@[simp] theorem putPacket_inputs (p : Packet) (s : State) : (putPacket p s).inputs = s.inputs := rfl

/-! ### `flushInput` -/

@[simp] theorem flushInput_code (s : State) : (flushInput s).code = s.code := rfl
@[simp] theorem flushInput_busy (s : State) : (flushInput s).busy = s.busy := rfl
@[simp] theorem flushInput_owner (s : State) : (flushInput s).owner = s.owner := rfl
@[simp] theorem flushInput_overrun (s : State) : (flushInput s).overrun = s.overrun := rfl
@[simp] theorem flushInput_pktValid (s : State) : (flushInput s).pktValid = s.pktValid := rfl
@[simp] theorem flushInput_opa (s : State) : (flushInput s).opa = s.opa := rfl
@[simp] theorem flushInput_result (s : State) : (flushInput s).result = s.result := rfl
@[simp] theorem flushInput_pktInfo (s : State) : (flushInput s).pktInfo = s.pktInfo := rfl
@[simp] theorem flushInput_txLen (s : State) : (flushInput s).txLen = s.txLen := rfl
@[simp] theorem flushInput_rxCount (s : State) : (flushInput s).rxCount = s.rxCount := rfl
@[simp] theorem flushInput_rxEnd (s : State) : (flushInput s).rxEnd = s.rxEnd := rfl
@[simp] theorem flushInput_mem (s : State) : (flushInput s).mem = s.mem := rfl
@[simp] theorem flushInput_gsw (s : State) : (flushInput s).gsw = s.gsw := rfl
@[simp] theorem flushInput_gsr (s : State) : (flushInput s).gsr = s.gsr := rfl
@[simp] theorem flushInput_active (s : State) : (flushInput s).active = s.active := rfl
@[simp] theorem flushInput_timer (s : State) : (flushInput s).timer = s.timer := rfl
@[simp] theorem flushInput_transport (s : State) : (flushInput s).transport = Transport.mk [] s.transport.answers s.transport.log := rfl
@[simp] theorem flushInput_busData (s : State) : (flushInput s).busData = s.busData := rfl
@[simp] theorem flushInput_resets (s : State) : (flushInput s).resets = s.resets := rfl
@[simp] theorem flushInput_inputs (s : State) : (flushInput s).inputs = s.inputs := rfl

/-! ### `writeFrame` -/

@[simp] theorem writeFrame_code (f : List Byte) (s : State) : (writeFrame f s).code = s.code := rfl
@[simp] theorem writeFrame_busy (f : List Byte) (s : State) : (writeFrame f s).busy = s.busy := rfl
@[simp] theorem writeFrame_owner (f : List Byte) (s : State) : (writeFrame f s).owner = s.owner := rfl
@[simp] theorem writeFrame_overrun (f : List Byte) (s : State) : (writeFrame f s).overrun = s.overrun := rfl
@[simp] theorem writeFrame_pktValid (f : List Byte) (s : State) : (writeFrame f s).pktValid = s.pktValid := rfl
@[simp] theorem writeFrame_opa (f : List Byte) (s : State) : (writeFrame f s).opa = s.opa := rfl
@[simp] theorem writeFrame_result (f : List Byte) (s : State) : (writeFrame f s).result = s.result := rfl
@[simp] theorem writeFrame_pktInfo (f : List Byte) (s : State) : (writeFrame f s).pktInfo = s.pktInfo := rfl
@[simp] theorem writeFrame_txLen (f : List Byte) (s : State) : (writeFrame f s).txLen = s.txLen := rfl
@[simp] theorem writeFrame_rxCount (f : List Byte) (s : State) : (writeFrame f s).rxCount = s.rxCount := rfl
@[simp] theorem writeFrame_rxEnd (f : List Byte) (s : State) : (writeFrame f s).rxEnd = s.rxEnd := rfl
@[simp] theorem writeFrame_mem (f : List Byte) (s : State) : (writeFrame f s).mem = s.mem := rfl
@[simp] theorem writeFrame_gsw (f : List Byte) (s : State) : (writeFrame f s).gsw = s.gsw := rfl
@[simp] theorem writeFrame_gsr (f : List Byte) (s : State) : (writeFrame f s).gsr = s.gsr := rfl
@[simp] theorem writeFrame_active (f : List Byte) (s : State) : (writeFrame f s).active = s.active := rfl
@[simp] theorem writeFrame_timer (f : List Byte) (s : State) : (writeFrame f s).timer = s.timer := rfl
@[simp] theorem writeFrame_transport (f : List Byte) (s : State) : (writeFrame f s).transport = Transport.mk s.transport.rxq s.transport.answers.tail (s.transport.log ++ [(f, nextOutcome f s)]) := rfl
@[simp] theorem writeFrame_busData (f : List Byte) (s : State) : (writeFrame f s).busData = s.busData := rfl
@[simp] theorem writeFrame_resets (f : List Byte) (s : State) : (writeFrame f s).resets = s.resets := rfl
@[simp] theorem writeFrame_inputs (f : List Byte) (s : State) : (writeFrame f s).inputs = s.inputs := rfl

/-! ### `sendFrame` -/

@[simp] theorem sendFrame_code (o : Owner) (f : List Byte) (s : State) : (sendFrame o f s).code = s.code := rfl
@[simp] theorem sendFrame_busy (o : Owner) (f : List Byte) (s : State) : (sendFrame o f s).busy = true := rfl
@[simp] theorem sendFrame_owner (o : Owner) (f : List Byte) (s : State) : (sendFrame o f s).owner = o := rfl
@[simp] theorem sendFrame_overrun (o : Owner) (f : List Byte) (s : State) : (sendFrame o f s).overrun = s.overrun := rfl
@[simp] theorem sendFrame_pktValid (o : Owner) (f : List Byte) (s : State) : (sendFrame o f s).pktValid = s.pktValid := rfl
@[simp] theorem sendFrame_opa (o : Owner) (f : List Byte) (s : State) : (sendFrame o f s).opa = s.opa := rfl
@[simp] theorem sendFrame_result (o : Owner) (f : List Byte) (s : State) : (sendFrame o f s).result = s.result := rfl
@[simp] theorem sendFrame_pktInfo (o : Owner) (f : List Byte) (s : State) : (sendFrame o f s).pktInfo = s.pktInfo := rfl
@[simp] theorem sendFrame_txLen (o : Owner) (f : List Byte) (s : State) : (sendFrame o f s).txLen = s.txLen := rfl
@[simp] theorem sendFrame_rxCount (o : Owner) (f : List Byte) (s : State) : (sendFrame o f s).rxCount = s.rxCount := rfl
@[simp] theorem sendFrame_rxEnd (o : Owner) (f : List Byte) (s : State) : (sendFrame o f s).rxEnd = s.rxEnd := rfl
@[simp] theorem sendFrame_mem (o : Owner) (f : List Byte) (s : State) : (sendFrame o f s).mem = s.mem := rfl
@[simp] theorem sendFrame_gsw (o : Owner) (f : List Byte) (s : State) : (sendFrame o f s).gsw = s.gsw := rfl
@[simp] theorem sendFrame_gsr (o : Owner) (f : List Byte) (s : State) : (sendFrame o f s).gsr = s.gsr := rfl
@[simp] theorem sendFrame_active (o : Owner) (f : List Byte) (s : State) : (sendFrame o f s).active = s.active := rfl
@[simp] theorem sendFrame_timer (o : Owner) (f : List Byte) (s : State) : (sendFrame o f s).timer = s.timer := rfl
@[simp] theorem sendFrame_transport (o : Owner) (f : List Byte) (s : State) : (sendFrame o f s).transport = Transport.mk [] s.transport.answers.tail (s.transport.log ++ [(f, nextOutcome f s)]) := rfl
@[simp] theorem sendFrame_busData (o : Owner) (f : List Byte) (s : State) : (sendFrame o f s).busData = s.busData := rfl
@[simp] theorem sendFrame_resets (o : Owner) (f : List Byte) (s : State) : (sendFrame o f s).resets = s.resets := rfl
@[simp] theorem sendFrame_inputs (o : Owner) (f : List Byte) (s : State) : (sendFrame o f s).inputs = s.inputs := rfl

/-! ### `startReceive` -/

@[simp] theorem startReceive_code (c : ActiveCmd) (s : State) : (startReceive c s).code = .rxWaiting := rfl
@[simp] theorem startReceive_busy (c : ActiveCmd) (s : State) : (startReceive c s).busy = s.busy := rfl
@[simp] theorem startReceive_owner (c : ActiveCmd) (s : State) : (startReceive c s).owner = s.owner := rfl
@[simp] theorem startReceive_overrun (c : ActiveCmd) (s : State) : (startReceive c s).overrun = s.overrun := rfl
@[simp] theorem startReceive_pktValid (c : ActiveCmd) (s : State) : (startReceive c s).pktValid = s.pktValid := rfl
@[simp] theorem startReceive_opa (c : ActiveCmd) (s : State) : (startReceive c s).opa = s.opa := rfl
@[simp] theorem startReceive_result (c : ActiveCmd) (s : State) : (startReceive c s).result = s.result := rfl
@[simp] theorem startReceive_pktInfo (c : ActiveCmd) (s : State) : (startReceive c s).pktInfo = s.pktInfo := rfl
@[simp] theorem startReceive_txLen (c : ActiveCmd) (s : State) : (startReceive c s).txLen = s.txLen := rfl
@[simp] theorem startReceive_rxCount (c : ActiveCmd) (s : State) : (startReceive c s).rxCount = 0 := rfl
@[simp] theorem startReceive_rxEnd (c : ActiveCmd) (s : State) : (startReceive c s).rxEnd = s.rxEnd := rfl
@[simp] theorem startReceive_mem (c : ActiveCmd) (s : State) : (startReceive c s).mem = s.mem := rfl
@[simp] theorem startReceive_gsw (c : ActiveCmd) (s : State) : (startReceive c s).gsw = s.gsw := rfl
@[simp] theorem startReceive_gsr (c : ActiveCmd) (s : State) : (startReceive c s).gsr = s.gsr := rfl
@[simp] theorem startReceive_active (c : ActiveCmd) (s : State) : (startReceive c s).active = some c := rfl
@[simp] theorem startReceive_timer (c : ActiveCmd) (s : State) : (startReceive c s).timer = true := rfl
@[simp] theorem startReceive_transport (c : ActiveCmd) (s : State) : (startReceive c s).transport = s.transport := rfl
@[simp] theorem startReceive_busData (c : ActiveCmd) (s : State) : (startReceive c s).busData = s.busData := rfl
@[simp] theorem startReceive_resets (c : ActiveCmd) (s : State) : (startReceive c s).resets = s.resets := rfl
@[simp] theorem startReceive_inputs (c : ActiveCmd) (s : State) : (startReceive c s).inputs = s.inputs := rfl

/-! ### `endReceive` -/

@[simp] theorem endReceive_code (cause : EndCause) (c : ResultCode) (s : State) : (endReceive cause c s).code = c := rfl
@[simp] theorem endReceive_busy (cause : EndCause) (c : ResultCode) (s : State) : (endReceive cause c s).busy = false := rfl
@[simp] theorem endReceive_owner (cause : EndCause) (c : ResultCode) (s : State) : (endReceive cause c s).owner = .nobody := rfl
@[simp] theorem endReceive_overrun (cause : EndCause) (c : ResultCode) (s : State) : (endReceive cause c s).overrun = s.overrun := rfl
@[simp] theorem endReceive_pktValid (cause : EndCause) (c : ResultCode) (s : State) : (endReceive cause c s).pktValid = s.pktValid := rfl
@[simp] theorem endReceive_opa (cause : EndCause) (c : ResultCode) (s : State) : (endReceive cause c s).opa = s.opa := rfl
@[simp] theorem endReceive_result (cause : EndCause) (c : ResultCode) (s : State) : (endReceive cause c s).result = s.result := rfl
@[simp] theorem endReceive_pktInfo (cause : EndCause) (c : ResultCode) (s : State) : (endReceive cause c s).pktInfo = s.pktInfo := rfl
@[simp] theorem endReceive_txLen (cause : EndCause) (c : ResultCode) (s : State) : (endReceive cause c s).txLen = s.txLen := rfl
@[simp] theorem endReceive_rxCount (cause : EndCause) (c : ResultCode) (s : State) : (endReceive cause c s).rxCount = s.rxCount := rfl
@[simp] theorem endReceive_rxEnd (cause : EndCause) (c : ResultCode) (s : State) : (endReceive cause c s).rxEnd = cause := rfl
@[simp] theorem endReceive_mem (cause : EndCause) (c : ResultCode) (s : State) : (endReceive cause c s).mem = s.mem := rfl
@[simp] theorem endReceive_gsw (cause : EndCause) (c : ResultCode) (s : State) : (endReceive cause c s).gsw = s.gsw := rfl
@[simp] theorem endReceive_gsr (cause : EndCause) (c : ResultCode) (s : State) : (endReceive cause c s).gsr = s.gsr := rfl
@[simp] theorem endReceive_active (cause : EndCause) (c : ResultCode) (s : State) : (endReceive cause c s).active = none := rfl
@[simp] theorem endReceive_timer (cause : EndCause) (c : ResultCode) (s : State) : (endReceive cause c s).timer = false := rfl
@[simp] theorem endReceive_transport (cause : EndCause) (c : ResultCode) (s : State) : (endReceive cause c s).transport = s.transport := rfl
@[simp] theorem endReceive_busData (cause : EndCause) (c : ResultCode) (s : State) : (endReceive cause c s).busData = s.busData := rfl
@[simp] theorem endReceive_resets (cause : EndCause) (c : ResultCode) (s : State) : (endReceive cause c s).resets = s.resets := rfl
@[simp] theorem endReceive_inputs (cause : EndCause) (c : ResultCode) (s : State) : (endReceive cause c s).inputs = s.inputs := rfl

/-! ### `arriveByte` -/

@[simp] theorem arriveByte_code (b : Byte) (s : State) : (arriveByte b s).code = s.code := rfl
@[simp] theorem arriveByte_busy (b : Byte) (s : State) : (arriveByte b s).busy = s.busy := rfl
@[simp] theorem arriveByte_owner (b : Byte) (s : State) : (arriveByte b s).owner = s.owner := rfl
@[simp] theorem arriveByte_overrun (b : Byte) (s : State) : (arriveByte b s).overrun = s.overrun := rfl
@[simp] theorem arriveByte_pktValid (b : Byte) (s : State) : (arriveByte b s).pktValid = s.pktValid := rfl
@[simp] theorem arriveByte_opa (b : Byte) (s : State) : (arriveByte b s).opa = s.opa := rfl
@[simp] theorem arriveByte_result (b : Byte) (s : State) : (arriveByte b s).result = s.result := rfl
@[simp] theorem arriveByte_pktInfo (b : Byte) (s : State) : (arriveByte b s).pktInfo = s.pktInfo := rfl
@[simp] theorem arriveByte_txLen (b : Byte) (s : State) : (arriveByte b s).txLen = s.txLen := rfl
@[simp] theorem arriveByte_rxCount (b : Byte) (s : State) : (arriveByte b s).rxCount = s.rxCount := rfl
@[simp] theorem arriveByte_rxEnd (b : Byte) (s : State) : (arriveByte b s).rxEnd = s.rxEnd := rfl
@[simp] theorem arriveByte_mem (b : Byte) (s : State) : (arriveByte b s).mem = s.mem := rfl
@[simp] theorem arriveByte_gsw (b : Byte) (s : State) : (arriveByte b s).gsw = s.gsw := rfl
@[simp] theorem arriveByte_gsr (b : Byte) (s : State) : (arriveByte b s).gsr = s.gsr := rfl
@[simp] theorem arriveByte_active (b : Byte) (s : State) : (arriveByte b s).active = s.active := rfl
@[simp] theorem arriveByte_timer (b : Byte) (s : State) : (arriveByte b s).timer = s.timer := rfl
@[simp] theorem arriveByte_transport (b : Byte) (s : State) : (arriveByte b s).transport = Transport.mk (s.transport.rxq ++ [b]) s.transport.answers s.transport.log := rfl
@[simp] theorem arriveByte_busData (b : Byte) (s : State) : (arriveByte b s).busData = s.busData := rfl
@[simp] theorem arriveByte_resets (b : Byte) (s : State) : (arriveByte b s).resets = s.resets := rfl
@[simp] theorem arriveByte_inputs (b : Byte) (s : State) : (arriveByte b s).inputs = s.inputs := rfl

end Sys2Proof.Machine
end

