-- ==== Sys2Proof/Laws/Memory.lean ====
section
/-! SUPPORT. The memory's laws: what a byte reads as after a write, there and elsewhere; every write keeps the canonical form;
and equal contents are equal lists. -/

namespace Sys2Proof.Machine

theorem Memory.lookup_store (a b : Nat) (v : Byte) (m : List Host.Cell) :
    Memory.lookup b (Memory.store a v m) = if b = a then some v else Memory.lookup b m := by
  induction m with
  | nil => simp [Memory.store, Memory.lookup]
  | cons c m ih =>
    obtain ⟨k, w⟩ := c
    simp only [Memory.store]
    split
    · simp [Memory.lookup]
    · split
      · subst_vars; simp only [Memory.lookup]; split <;> rfl
      · simp only [Memory.lookup]; rw [ih]; split <;> split <;> simp_all

/-- Reading the byte just written. -/
theorem Memory.lookup_store_same (a : Nat) (v : Byte) (m : List Host.Cell) :
    Memory.lookup a (Memory.store a v m) = some v := by simp [Memory.lookup_store]

theorem Memory.above_mono {a b : Nat} (h : a ≤ b) : ∀ m, Memory.above b m = true → Memory.above a m = true
  | [], _ => rfl
  | (k, _) :: m, hm => by
    simp only [Memory.above, Bool.and_eq_true, decide_eq_true_eq] at hm ⊢
    exact ⟨by omega, hm.2⟩

theorem Memory.above_store {k a : Nat} (v : Byte) (hk : k < a) :
    ∀ m, Memory.above k m = true → Memory.above k (Memory.store a v m) = true := by
  intro m
  induction m generalizing k with
  | nil => intro _; simp [Memory.store, Memory.above, hk]
  | cons c m ih =>
    obtain ⟨b, w⟩ := c
    intro hm
    simp only [Memory.above, Bool.and_eq_true, decide_eq_true_eq] at hm
    simp only [Memory.store]
    split
    · simp only [Memory.above, Bool.and_eq_true, decide_eq_true_eq]; exact ⟨hk, ‹_›, hm.2⟩
    · split
      · subst_vars; simp only [Memory.above, Bool.and_eq_true, decide_eq_true_eq]; exact ⟨hk, hm.2⟩
      · simp only [Memory.above, Bool.and_eq_true, decide_eq_true_eq]
        exact ⟨hm.1, ih (by omega) hm.2⟩

/-- A write keeps the canonical form. -/
theorem Memory.wf_store (a : Nat) (v : Byte) (m : List Host.Cell) (h : Memory.wf m = true) :
    Memory.wf (Memory.store a v m) = true := by
  cases m with
  | nil => rfl
  | cons c m =>
    obtain ⟨b, w⟩ := c
    simp only [Memory.wf] at h
    simp only [Memory.store]
    split
    · simp only [Memory.wf, Memory.above, Bool.and_eq_true, decide_eq_true_eq]; exact ⟨‹_›, h⟩
    · split
      · subst_vars; exact h
      · exact Memory.above_store v (by omega) m h

/-- Writes of any number of bytes keep the canonical form. -/
theorem Memory.wf_storeAll (a : Nat) (vs : List Byte) (m : List Host.Cell) (h : Memory.wf m = true) :
    Memory.wf (Memory.storeAll a vs m) = true := by
  induction vs generalizing a m with
  | nil => exact h
  | cons v vs ih => exact ih (a + 1) _ (Memory.wf_store a v m h)

/-- What a byte holds after writes: the byte written there, or what it held. -/
theorem Memory.lookup_storeAll (a b : Nat) (vs : List Byte) (m : List Host.Cell) :
    Memory.lookup b (Memory.storeAll a vs m) =
      if a ≤ b ∧ b < a + vs.length then vs[b - a]? else Memory.lookup b m := by
  induction vs generalizing a m with
  | nil =>
    simp only [Memory.storeAll, List.length_nil]
    rw [if_neg (by omega)]
  | cons v vs ih =>
    simp only [Memory.storeAll, List.length_cons]
    rw [ih, Memory.lookup_store]
    by_cases h1 : b = a
    · subst h1; simp
    · by_cases h2 : a + 1 ≤ b ∧ b < a + 1 + vs.length
      · rw [if_pos h2, if_pos (by omega)]
        obtain ⟨j, hj⟩ : ∃ j, b - a = j + 1 := ⟨b - a - 1, by omega⟩
        rw [hj, List.getElem?_cons_succ]; congr 1; omega
      · rw [if_neg h2, if_neg h1, if_neg (by omega)]

theorem Memory.lookup_above {a k : Nat} (hk : k ≤ a) : ∀ m, Memory.above a m = true → Memory.lookup k m = none
  | [], _ => rfl
  | (b, w) :: m, hm => by
    simp only [Memory.above, Bool.and_eq_true, decide_eq_true_eq] at hm
    simp only [Memory.lookup]
    rw [if_neg (by omega)]
    exact Memory.lookup_above (by omega) m hm.2

/-- Two memories in canonical form with the same contents are the same list. -/
theorem Memory.eq_of_lookup_eq : ∀ m n : List Host.Cell, Memory.wf m = true → Memory.wf n = true →
    (∀ a, Memory.lookup a m = Memory.lookup a n) → m = n
  | [], [], _, _, _ => rfl
  | [], (b, w) :: n, _, _, h => by simpa [Memory.lookup] using h b
  | (b, w) :: m, [], _, _, h => by simpa [Memory.lookup] using h b
  | (a, v) :: m, (b, w) :: n, hm, hn, h => by
    simp only [Memory.wf] at hm hn
    have wf_of : ∀ {k : Nat} {l : List Host.Cell}, Memory.above k l = true → Memory.wf l = true := by
      intro k l hl
      cases l with
      | nil => rfl
      | cons c l => exact (by simpa [Memory.above] using hl : _ ∧ Memory.above c.1 l = true).2
    have hab : a = b := by
      rcases Nat.lt_trichotomy a b with hl | he | hl
      · have := h a
        simp only [Memory.lookup, if_pos, if_neg (show a ≠ b by omega)] at this
        rw [Memory.lookup_above (by omega) n hn] at this; simp at this
      · exact he
      · have := h b
        simp only [Memory.lookup, if_pos, if_neg (show b ≠ a by omega)] at this
        rw [Memory.lookup_above (by omega) m hm] at this; simp at this
    subst hab
    have hvw : v = w := by simpa [Memory.lookup] using h a
    subst hvw
    have : m = n := Memory.eq_of_lookup_eq m n (wf_of hm) (wf_of hn) (fun k => by
      by_cases hk : k = a
      · subst hk; rw [Memory.lookup_above (Nat.le_refl _) m hm, Memory.lookup_above (Nat.le_refl _) n hn]
      · simpa [Memory.lookup, hk] using h k)
    rw [this]

/-- The listed offsets after writes: those listed before and those written. -/
theorem Memory.mem_storeAll (vs : List Byte) (m : List Host.Cell) (a : Nat) (c : Host.Cell)
    (h : c ∈ Memory.storeAll a vs m) : c ∈ m ∨ (a ≤ c.1 ∧ c.1 < a + vs.length) := by
  have one : ∀ (a : Nat) (v : Byte) (m : List Host.Cell), c ∈ Memory.store a v m → c ∈ m ∨ c.1 = a := by
    intro a v m
    induction m with
    | nil => intro h; simp only [Memory.store, List.mem_singleton] at h; exact .inr (by rw [h])
    | cons d m ih =>
      obtain ⟨b, w⟩ := d
      simp only [Memory.store]
      intro h
      split at h
      · rcases List.mem_cons.1 h with h | h
        · exact .inr (by rw [h])
        · exact .inl h
      · split at h
        · rcases List.mem_cons.1 h with h | h
          · exact .inr (by rw [h])
          · exact .inl (List.mem_cons_of_mem _ h)
        · rcases List.mem_cons.1 h with h | h
          · exact .inl (by rw [h]; exact List.mem_cons_self)
          · exact (ih h).imp (List.mem_cons_of_mem _) id
  induction vs generalizing a m with
  | nil => exact .inl h
  | cons v vs ih =>
    rcases ih (Memory.store a v m) (a + 1) h with h | h
    · rcases one a v m h with h | h
      · exact .inl h
      · exact .inr (by simp only [List.length_cons]; omega)
    · exact .inr (by simp only [List.length_cons]; omega)

/-- The content of a buffer byte after writes. -/
theorem byteOf_storeBytes (off b : Nat) (bs : List Byte) (s : State) :
    byteOf (storeBytes off bs s) b =
      if off ≤ b ∧ b < off + bs.length then bs.getD (b - off) 0 else byteOf s b := by
  simp only [byteOf, storeBytes_mem, storeBytes_resets, Memory.lookup_storeAll]
  split
  · rename_i hb
    rw [List.getElem?_eq_getElem (by omega), List.getD_eq_getElem _ _ (by omega)]; rfl
  · rfl

/-- The bytes just written read back. -/
theorem bytesOf_storeBytes_same (off : Nat) (bs : List Byte) (s : State) :
    bytesOf (storeBytes off bs s) off bs.length = bs := by
  apply List.ext_getElem
  · simp [bytesOf]
  · intro i h1 h2
    simp only [bytesOf, List.getElem_map, List.getElem_range, byteOf_storeBytes]
    rw [if_pos (by omega), List.getD_eq_getElem _ _ (by omega)]
    congr 1; omega

@[simp] theorem bytesOf_length (s : State) (off n : Nat) : (bytesOf s off n).length = n := by simp [bytesOf]

@[simp] theorem reset_memory_wf : Memory.wf State.reset.mem = true := rfl

end Sys2Proof.Machine
end

