-- ==== Sys2Proof/Laws/Table.lean ====
section
/-! SUPPORT. The device tables: what an entry is after an update of one entry or of all, and how the present IDs and their count
follow. -/

namespace Sys2Proof.Machine

/-- An entry after a function was applied to every entry. -/
theorem mapEntries_getElem {α : Type} {n : Nat} (f : Nat → α → α) (v : Vector α n) (i : Nat) (h : i < n) :
    (mapEntries f v)[i] = f i v[i] := by
  simp [mapEntries]

/-- The ascending indices of a test are the indices in range that pass it. -/
theorem indicesWhere_eq_filter {α : Type} (p : α → Bool) (l : List α) (k : Nat) :
    indicesWhere p k l = (List.range' k l.length).filter (fun i => (l[i - k]?).any p) := by
  induction l generalizing k with
  | nil => rfl
  | cons a as ih =>
    have hc : (List.range' (k + 1) as.length).filter (fun i => ((a :: as)[i - k]?).any p) =
        (List.range' (k + 1) as.length).filter (fun i => (as[i - (k + 1)]?).any p) := by
      refine List.filter_congr (fun i hi => ?_)
      have hi := (List.mem_range'_1.1 hi).1
      rw [show i - k = (i - (k + 1)) + 1 by omega, List.getElem?_cons_succ]
    rw [indicesWhere, List.length_cons, List.range'_succ, List.filter_cons, hc, ih]
    simp

/-! ### The GSW table -/

theorem gswDevOf_of_not_lt (g : Gsw) {i : Nat} (h : ¬ i < Config.idSlots) : gswDevOf g i = GswDev.reset := by
  simp only [gswDevOf, dif_neg h]

/-- Entries depend on the table alone. -/
theorem gswDevOf_congr {g h : Gsw} (e : g.devs = h.devs) (i : Nat) : gswDevOf g i = gswDevOf h i := by
  simp only [gswDevOf, e]

/-- The entries after one was replaced. -/
theorem gswDevOf_put (g : Gsw) (d : GswDev) {i : Nat} (hi : i < Config.idSlots) (j : Nat) :
    gswDevOf (putGswDev i d g) j = if j = i then d else gswDevOf g j := by
  simp only [gswDevOf, putGswDev, dif_pos hi]
  split
  · split
    · subst_vars; simp
    · rename_i h1 h2; simp [Ne.symm h2]
  · split
    · omega
    · rfl

/-- The entries after all were mapped. -/
theorem gswDevOf_map (g h : Gsw) (f : Nat → GswDev → GswDev) (e : h.devs = mapEntries f g.devs) {j : Nat}
    (hj : j < Config.idSlots) : gswDevOf h j = f j (gswDevOf g j) := by
  simp only [gswDevOf, dif_pos hj, e, mapEntries_getElem]

@[simp] theorem putGswDev_start (i : Nat) (d : GswDev) (g : Gsw) : (putGswDev i d g).start = g.start := by
  unfold putGswDev; split <;> rfl
@[simp] theorem putGswDev_len (i : Nat) (d : GswDev) (g : Gsw) : (putGswDev i d g).len = g.len := by
  unfold putGswDev; split <;> rfl
@[simp] theorem putGswDev_phase (i : Nat) (d : GswDev) (g : Gsw) : (putGswDev i d g).phase = g.phase := by
  unfold putGswDev; split <;> rfl
@[simp] theorem putGswDev_dirty (i : Nat) (d : GswDev) (g : Gsw) : (putGswDev i d g).dirty = g.dirty := by
  unfold putGswDev; split <;> rfl
@[simp] theorem putGswDev_flat (i : Nat) (d : GswDev) (g : Gsw) : (putGswDev i d g).flat = g.flat := by
  unfold putGswDev; split <;> rfl

/-- The present IDs, ascending, as a filter of all IDs. -/
theorem gswIds_eq_filter (g : Gsw) :
    gswIds g = (List.range Config.idSlots).filter (fun i => (gswDevOf g i).present) := by
  rw [gswIds, indicesWhere_eq_filter, Vector.length_toList, ← List.range_eq_range']
  refine List.filter_congr (fun i hi => ?_)
  have hi : i < Config.idSlots := List.mem_range.1 hi
  simp [gswDevOf, hi]

/-- The present IDs depend on the present bits alone. -/
theorem gswIds_congr {g h : Gsw} (e : ∀ i, (gswDevOf g i).present = (gswDevOf h i).present) : gswIds g = gswIds h := by
  simp only [gswIds_eq_filter, e]

theorem mem_gswIds (g : Gsw) (i : Nat) : i ∈ gswIds g ↔ i < Config.idSlots ∧ (gswDevOf g i).present = true := by
  simp [gswIds_eq_filter]

/-- There are at most as many present IDs as the table has entries. -/
theorem gswCount_le (g : Gsw) : gswCount g ≤ Config.idSlots := by
  rw [gswCount, gswIds_eq_filter]
  exact Nat.le_trans (List.length_filter_le _ _) (by simp)

/-- The present IDs ascend strictly. -/
theorem gswIds_ascending (g : Gsw) : (gswIds g).Pairwise (· < ·) := by
  rw [gswIds_eq_filter]
  exact List.pairwise_lt_range.filter _

/-- Only an ID of the table is present. -/
theorem lt_of_gsw_present {g : Gsw} {i : Nat} (h : (gswDevOf g i).present = true) : i < Config.idSlots := by
  by_contra hn
  rw [gswDevOf_of_not_lt g hn] at h; simp [GswDev.reset] at h

theorem gswCount_eq_zero (g : Gsw) : gswCount g = 0 ↔ ∀ i, (gswDevOf g i).present = false := by
  rw [gswCount, List.length_eq_zero_iff, List.eq_nil_iff_forall_not_mem]
  constructor
  · intro h i
    by_contra hp
    have hp : (gswDevOf g i).present = true := by simpa using hp
    exact h i ((mem_gswIds g i).2 ⟨lt_of_gsw_present hp, hp⟩)
  · intro h i hi
    rw [mem_gswIds, h i] at hi; simp at hi

/-! ### The GSR table -/

theorem gsrDevOf_of_not_lt (g : Gsr) {i : Nat} (h : ¬ i < Config.idSlots) : gsrDevOf g i = GsrDev.reset := by
  simp only [gsrDevOf, dif_neg h]

/-- Entries depend on the table alone. -/
theorem gsrDevOf_congr {g h : Gsr} (e : g.devs = h.devs) (i : Nat) : gsrDevOf g i = gsrDevOf h i := by
  simp only [gsrDevOf, e]

/-- The entries after one was replaced. -/
theorem gsrDevOf_put (g : Gsr) (d : GsrDev) {i : Nat} (hi : i < Config.idSlots) (j : Nat) :
    gsrDevOf (putGsrDev i d g) j = if j = i then d else gsrDevOf g j := by
  simp only [gsrDevOf, putGsrDev, dif_pos hi]
  split
  · split
    · subst_vars; simp
    · rename_i h1 h2; simp [Ne.symm h2]
  · split
    · omega
    · rfl

/-- The entries after all were mapped. -/
theorem gsrDevOf_map (g h : Gsr) (f : Nat → GsrDev → GsrDev) (e : h.devs = mapEntries f g.devs) {j : Nat}
    (hj : j < Config.idSlots) : gsrDevOf h j = f j (gsrDevOf g j) := by
  simp only [gsrDevOf, dif_pos hj, e, mapEntries_getElem]

@[simp] theorem putGsrDev_start (i : Nat) (d : GsrDev) (g : Gsr) : (putGsrDev i d g).start = g.start := by
  unfold putGsrDev; split <;> rfl
@[simp] theorem putGsrDev_len (i : Nat) (d : GsrDev) (g : Gsr) : (putGsrDev i d g).len = g.len := by
  unfold putGsrDev; split <;> rfl
@[simp] theorem putGsrDev_phase (i : Nat) (d : GsrDev) (g : Gsr) : (putGsrDev i d g).phase = g.phase := by
  unfold putGsrDev; split <;> rfl
@[simp] theorem putGsrDev_dirty (i : Nat) (d : GsrDev) (g : Gsr) : (putGsrDev i d g).dirty = g.dirty := by
  unfold putGsrDev; split <;> rfl
@[simp] theorem putGsrDev_lastOk (i : Nat) (d : GsrDev) (g : Gsr) : (putGsrDev i d g).lastOk = g.lastOk := by
  unfold putGsrDev; split <;> rfl
@[simp] theorem putGsrDev_flat (i : Nat) (d : GsrDev) (g : Gsr) : (putGsrDev i d g).flat = g.flat := by
  unfold putGsrDev; split <;> rfl

/-- The present IDs, ascending, as a filter of all IDs. -/
theorem gsrIds_eq_filter (g : Gsr) :
    gsrIds g = (List.range Config.idSlots).filter (fun i => (gsrDevOf g i).present) := by
  rw [gsrIds, indicesWhere_eq_filter, Vector.length_toList, ← List.range_eq_range']
  refine List.filter_congr (fun i hi => ?_)
  have hi : i < Config.idSlots := List.mem_range.1 hi
  simp [gsrDevOf, hi]

/-- The present IDs depend on the present bits alone. -/
theorem gsrIds_congr {g h : Gsr} (e : ∀ i, (gsrDevOf g i).present = (gsrDevOf h i).present) : gsrIds g = gsrIds h := by
  simp only [gsrIds_eq_filter, e]

theorem mem_gsrIds (g : Gsr) (i : Nat) : i ∈ gsrIds g ↔ i < Config.idSlots ∧ (gsrDevOf g i).present = true := by
  simp [gsrIds_eq_filter]

/-- There are at most as many present IDs as the table has entries. -/
theorem gsrCount_le (g : Gsr) : gsrCount g ≤ Config.idSlots := by
  rw [gsrCount, gsrIds_eq_filter]
  exact Nat.le_trans (List.length_filter_le _ _) (by simp)

/-- The present IDs ascend strictly. -/
theorem gsrIds_ascending (g : Gsr) : (gsrIds g).Pairwise (· < ·) := by
  rw [gsrIds_eq_filter]
  exact List.pairwise_lt_range.filter _

/-- Only an ID of the table is present. -/
theorem lt_of_gsr_present {g : Gsr} {i : Nat} (h : (gsrDevOf g i).present = true) : i < Config.idSlots := by
  by_contra hn
  rw [gsrDevOf_of_not_lt g hn] at h; simp [GsrDev.reset] at h

theorem gsrCount_eq_zero (g : Gsr) : gsrCount g = 0 ↔ ∀ i, (gsrDevOf g i).present = false := by
  rw [gsrCount, List.length_eq_zero_iff, List.eq_nil_iff_forall_not_mem]
  constructor
  · intro h i
    by_contra hp
    have hp : (gsrDevOf g i).present = true := by simpa using hp
    exact h i ((mem_gsrIds g i).2 ⟨lt_of_gsr_present hp, hp⟩)
  · intro h i hi
    rw [mem_gsrIds, h i] at hi; simp at hi

/-! ### Slots and IDs -/

@[simp] theorem slotBytes_length (id : Nat) (slot : List Byte) (n : Nat) : (slotBytes id slot n).length = n := by
  simp [slotBytes]

/-- A slot window that was just written holds the bytes written. -/
theorem slotBytes_writeSlot (id : Nat) (bs slot : List Byte) :
    slotBytes id (writeSlot bs slot) bs.length = bs := by
  apply List.ext_getElem
  · simp
  · intro i h1 h2
    simp only [slotBytes, List.getElem_map, List.getElem_range, writeSlot]
    rw [List.getD_append _ _ _ _ h2, List.getD_eq_getElem _ _ h2]

@[simp] theorem writeSlot_length (bs slot : List Byte) :
    (writeSlot bs slot).length = max bs.length slot.length := by
  simp only [writeSlot, List.length_append, List.length_drop]; omega

/-- An individually addressable ID is an index of the tables. -/
theorem validId_iff (id : Byte) : validId id = true ↔ id.toNat < Config.idSlots := by
  simp only [validId, decide_eq_true_eq, Config.maxDevId, Config.idSlots]; omega

theorem gswPresent_iff (g : Gsw) (id : Byte) : gswPresent g id = true ↔ (gswDevOf g id.toNat).present = true := by
  simp only [gswPresent, Bool.and_eq_true, validId_iff]
  exact ⟨And.right, fun h => ⟨lt_of_gsw_present h, h⟩⟩

theorem gsrPresent_iff (g : Gsr) (id : Byte) : gsrPresent g id = true ↔ (gsrDevOf g id.toNat).present = true := by
  simp only [gsrPresent, Bool.and_eq_true, validId_iff]
  exact ⟨And.right, fun h => ⟨lt_of_gsr_present h, h⟩⟩

end Sys2Proof.Machine
end

