-- ==== Sys2Proof/Laws/Ops.lean ====
section
/-! SUPPORT. For each shared operation, what it does, said once: the buffers' loads and stores, the encoder, a scan's packet, and
what the demultiplexer leaves in one entry. -/

namespace Sys2Proof.Machine

/-- Bytes built into TX_BUF change only their own places (R84). -/
theorem byteOf_loadFrame (f : List Byte) (s : State) (a : Nat) (h : a < txBase ∨ txBase + f.length ≤ a) :
    byteOf (loadFrame f s) a = byteOf s a := by
  show byteOf (storeBytes txBase f s) a = _
  rw [byteOf_storeBytes, if_neg (by omega)]

/-- TX_BUF holds the frame built into it (R27, R84). -/
theorem txFrame_loadFrame (f : List Byte) (s : State) (h : f.length ≤ 255) : txFrame (loadFrame f s) = f := by
  have hl : (loadFrame f s).txLen.toNat = f.length := by
    simp only [loadFrame_txLen, BitVec.toNat_ofNat]; omega
  unfold txFrame
  rw [hl]
  exact bytesOf_storeBytes_same txBase f s

/-- A decoded packet changes only its own places of PKT_BUF (R87, R89). -/
theorem byteOf_putPacket (p : Packet) (s : State) (a : Nat) (h : a < pktBase ∨ pktBase + p.params.length ≤ a) :
    byteOf (putPacket p s) a = byteOf s a := by
  show byteOf (storeBytes pktBase p.params s) a = _
  rw [byteOf_storeBytes, if_neg (by omega)]

/-- An appended byte changes only its own place of RX_BUF (R87, R115). -/
theorem byteOf_appendRx (v : Byte) (s : State) (a : Nat) (h : a ≠ rxBase + s.rxCount.toNat) :
    byteOf (appendRx v s) a = byteOf s a := by
  show byteOf (storeBytes (rxBase + s.rxCount.toNat) [v] s) a = _
  rw [byteOf_storeBytes, if_neg (by simp only [List.length_singleton]; omega)]

/-- Compaction changes only places of RX_BUF below RX_COUNT (R87). -/
theorem byteOf_compactRx (c : Nat) (s : State) (a : Nat) (h : a < rxBase ∨ rxBase + s.rxCount.toNat ≤ a) :
    byteOf (compactRx c s) a = byteOf s a := by
  show byteOf (storeBytes rxBase ((rxBytes s).drop c) s) a = _
  rw [byteOf_storeBytes, if_neg (by simp only [rxBytes, List.length_drop, bytesOf_length]; omega)]

/-- All that a call of TransportWrite can answer (R11, R132): Full with a count of the whole frame, Short with the count of fewer
bytes than it has, or Error. -/
theorem nextOutcome_cases (f : List Byte) (s : State) :
    (∃ n, nextAnswer s = .count n ∧ f.length ≤ n ∧ nextOutcome f s = .full) ∨
    (∃ c, nextAnswer s = .count c ∧ c < f.length ∧ nextOutcome f s = .short c) ∨
    (nextAnswer s = .error ∧ nextOutcome f s = .error) := by
  cases h : nextAnswer s with
  | count n =>
    by_cases hn : f.length ≤ n
    · exact .inl ⟨n, rfl, hn, by simp [nextOutcome, outcomeOf, h, hn]⟩
    · exact .inr (.inl ⟨n, rfl, by omega, by simp [nextOutcome, outcomeOf, h, hn]⟩)
  | error => exact .inr (.inr ⟨rfl, by simp [nextOutcome, outcomeOf, h]⟩)

/-- "`Short(c)` with c < |bytes|" (R11). -/
theorem nextOutcome_short_lt {f : List Byte} {s : State} {c : Nat} (h : nextOutcome f s = .short c) : c < f.length := by
  rcases nextOutcome_cases f s with ⟨n, _, _, h1⟩ | ⟨n, _, h2, h1⟩ | ⟨_, h1⟩ <;> rw [h] at h1 <;> cases h1
  exact h2

/-- A call of TransportWrite adds one line to the log (R11), which keeps R11's bound of a short write. -/
theorem writeFrame_shortWrites {f : List Byte} {s : State}
    (hs : ∀ e ∈ s.transport.log, ∀ c, e.2 = .short c → c < e.1.length) :
    ∀ e ∈ (writeFrame f s).transport.log, ∀ c, e.2 = .short c → c < e.1.length := by
  intro e he c hc
  rcases List.mem_append.1 he with he | he
  · exact hs e he c hc
  · obtain rfl := List.mem_singleton.1 he
    exact nextOutcome_short_lt hc

/-- All that the encoder can do (R84): no frame and TX_LEN 0, or the frame in TX_BUF. -/
theorem encodeFrame_cases (id instr : Byte) (p : List Byte) (s : State) :
    (Config.maxParams < p.length ∧ encodeFrame id instr p s = finish .txError (clearFrame s)) ∨
    (p.length ≤ Config.maxParams ∧ ∃ f, buildFrame id instr p = some f ∧ f.length = p.length + 6 ∧
      encodeFrame id instr p s = finish .success (loadFrame f s)) := by
  unfold encodeFrame
  split
  · rename_i h
    exact .inl ⟨(buildFrame_eq_none id instr p).1 h, rfl⟩
  · rename_i f h
    exact .inr ⟨(buildFrame_eq_some h).1, f, h, buildFrame_length h, rfl⟩

/-- A scanned packet has at most 244 parameters (R59, R81). -/
theorem scan_packet_length {b : List Byte} {any : Bool} {x : Byte} {h : Nat} {p : Packet} (hs : scan b any x = .packet h p) :
    p.params.length ≤ Config.maxParams := by
  rcases scan_cases b any x with h1 | ⟨j, _, h1⟩ | ⟨j, _, h1, _⟩ | ⟨j, q, h1, _, h3, _⟩ <;> rw [hs] at h1 <;> cases h1
  exact h3

/-- The packet the demultiplexer accepts has L parameters (R116). -/
theorem demuxLoop_length {x len : Byte} {cause : EndCause} :
    ∀ (n : Nat) (failed : Bool) (b : List Byte) (p : Packet), demuxLoop x len cause n failed b = .ok p →
      p.params.length = len.toNat := by
  intro n
  induction n with
  | zero => intro failed b p h; simp [demuxLoop] at h
  | succ n ih =>
    intro failed b p h
    unfold demuxLoop at h
    split at h
    · split at h
      · injection h with h; subst h; assumption
      · exact ih _ _ _ h
    · exact ih _ _ _ h
    · cases h
    · cases h

/-- The code of a failing ID is never Success (R116). -/
theorem demuxLoop_error {x len : Byte} {cause : EndCause} :
    ∀ (n : Nat) (failed : Bool) (b : List Byte) (c : ResultCode), demuxLoop x len cause n failed b = .error c →
      c ≠ .success := by
  have hm : ∀ failed : Bool, (if failed then ResultCode.rxCorrupt else missingCode cause) ≠ .success := by
    intro failed; cases failed <;> cases cause <;> simp [missingCode]
  intro n
  induction n with
  | zero => intro failed b c h; injection h with h; subst h; exact hm failed
  | succ n ih =>
    intro failed b c h
    unfold demuxLoop at h
    split at h
    · split at h
      · cases h
      · exact ih _ _ _ h
    · exact ih _ _ _ h
    · injection h with h; subst h; exact hm failed
    · injection h with h; subst h; exact hm failed

/-- All that the demultiplexer can do to an entry (R117). -/
theorem demuxEntry_cases (b : List Byte) (len : Byte) (cause : EndCause) (id : Nat) (d : GsrDev) :
    (d.present = false ∧ demuxEntry b len cause id d = d) ∨
    (d.present = true ∧ ∃ p, demuxOne b (BitVec.ofNat 8 id) len cause = .ok p ∧ p.params.length = len.toNat ∧
      demuxEntry b len cause id d =
        { d with slot := writeSlot p.params d.slot, valid := true, idres := .success, iderr := p.error }) ∨
    (d.present = true ∧ ∃ c, demuxOne b (BitVec.ofNat 8 id) len cause = .error c ∧ c ≠ .success ∧
      demuxEntry b len cause id d = { d with valid := false, idres := c }) := by
  unfold demuxEntry
  split
  · rename_i hp
    split
    · rename_i p h; exact .inr (.inl ⟨hp, p, h, demuxLoop_length _ _ _ _ h, rfl⟩)
    · rename_i c h; exact .inr (.inr ⟨hp, c, h, demuxLoop_error _ _ _ _ h, rfl⟩)
  · rename_i hp; exact .inl ⟨by simpa using hp, rfl⟩

/-- The demultiplexer keeps the set (R117). -/
theorem demuxEntry_present (b : List Byte) (len : Byte) (cause : EndCause) (id : Nat) (d : GsrDev) :
    (demuxEntry b len cause id d).present = d.present := by
  rcases demuxEntry_cases b len cause id d with ⟨_, h⟩ | ⟨_, _, _, _, h⟩ | ⟨_, _, _, _, h⟩ <;> rw [h]

end Sys2Proof.Machine
end

