-- ==== Sys2Proof/Laws/PerInstr.lean ====
section
/-! SUPPORT. The per-instruction family `WireOrCommand`: each instruction's encoding is of its own kind, a command word or an
instruction packet, and carries its own value of spec/opcode_table.json in the OP field or the INSTR byte. -/

namespace Sys2Proof.Laws.WireOrCommand

/-- The match value of an instruction's row in spec/opcode_table.json. -/
def tableValue : Instr → Byte
  | .ping _ => 0x01
  | .read _ _ _ => 0x02
  | .write _ _ _ => 0x03
  | .regwrite _ _ _ => 0x04
  | .action _ => 0x05
  | .syncread _ _ _ => 0x82
  | .syncwrite _ _ _ => 0x83
  | .codecEncode _ _ _ => 0x01
  | .codecTransmit _ => 0x02
  | .codecReceive _ _ _ => 0x03
  | .codecChecksum _ => 0x04
  | .codecScan _ _ _ => 0x05
  | .wordMake _ _ _ => 0x10
  | .wordLobyte _ => 0x11
  | .wordHibyte _ => 0x12
  | .signToHost _ => 0x13
  | .signToDevice _ => 0x14
  | .gswInit _ _ => 0x20
  | .gswAdd _ _ => 0x21
  | .gswRemove _ => 0x22
  | .gswChange _ _ => 0x23
  | .gswClear => 0x24
  | .gswTransmit => 0x25
  | .gsrInit _ _ => 0x30
  | .gsrAdd _ => 0x31
  | .gsrRemove _ => 0x32
  | .gsrClear => 0x33
  | .gsrTxreq => 0x34
  | .gsrRx => 0x35
  | .gsrIsAvailable _ _ _ => 0x36
  | .gsrGetValue _ _ => 0x37
  | .gsrIdResult _ => 0x38

/-- A block command is encoded as a command word with its value in OP (R67, R68) and has no INSTR byte; a wire instruction is
encoded as the packet of its parameters with its value in the INSTR byte (R57, R64). -/
def Statement (i : Instr) : Prop :=
  (wireOpcode i = none ∧ wireParams i = [] ∧ ∃ w, encode i = .command w ∧ opField w = tableValue i) ∨
  (wireOpcode i = some (tableValue i) ∧
    ∃ f, encode i = .packet f ∧ (i.wellFormed = true → f.length = (wireParams i).length + 6 ∧ f[4]? = some (tableValue i)))

/-- The OP field of an assembled command word (R67). -/
theorem opField_commandWord (op a b c : Byte) : opField (commandWord op a b c) = op := by
  simp only [opField, commandWord]
  ext j hj
  rw [BitVec.getElem_extractLsb', Nat.zero_add, BitVec.getLsbD_append]
  simp [hj]

/-- The INSTR byte and the length of a packet that is not too long (R57, R73). -/
theorem packet_instr (id instr : Byte) (p : List Byte) (h : p.length ≤ Config.maxParams) :
    ((Machine.buildFrame id instr p).getD []).length = p.length + 6 ∧
      ((Machine.buildFrame id instr p).getD [])[4]? = some instr := by
  unfold Machine.buildFrame
  rw [if_neg (by simp only [Config.maxParams, Config.maxFrame] at *; omega)]
  constructor
  · simp
  · rfl

/-- A command's side of the family. -/
theorem of_command {i : Instr} {op a b c : Byte} (h1 : wireOpcode i = none) (h2 : wireParams i = [])
    (h3 : encode i = .command (commandWord op a b c)) (h4 : tableValue i = op) : Statement i :=
  .inl ⟨h1, h2, _, h3, by rw [opField_commandWord, h4]⟩

/-- A wire instruction's side of the family. -/
theorem of_packet {i : Instr} {id op : Byte} (h1 : wireOpcode i = some op)
    (h2 : encode i = packetOf id op (wireParams i)) (h3 : tableValue i = op)
    (h4 : i.wellFormed = true → (wireParams i).length ≤ Config.maxParams) : Statement i :=
  .inr ⟨by rw [h1, h3], _, h2, fun h => by rw [h3]; exact packet_instr id op _ (h4 h)⟩

theorem ping (id : Byte) : Statement (.ping id) :=
  of_packet rfl rfl rfl (fun h => by simpa [Instr.wellFormed] using h)

theorem read (id : Byte) (address : Byte) (length : Byte) : Statement (.read id address length) :=
  of_packet rfl rfl rfl (fun h => by simpa [Instr.wellFormed] using h)

theorem write (id : Byte) (address : Byte) (data : List Byte) : Statement (.write id address data) :=
  of_packet rfl rfl rfl (fun h => by simpa [Instr.wellFormed] using h)

theorem regwrite (id : Byte) (address : Byte) (data : List Byte) : Statement (.regwrite id address data) :=
  of_packet rfl rfl rfl (fun h => by simpa [Instr.wellFormed] using h)

theorem action (id : Byte) : Statement (.action id) :=
  of_packet rfl rfl rfl (fun h => by simpa [Instr.wellFormed] using h)

theorem syncread (start : Byte) (len : Byte) (ids : List Byte) : Statement (.syncread start len ids) :=
  of_packet rfl rfl rfl (fun h => by simpa [Instr.wellFormed] using h)

theorem syncwrite (start : Byte) (len : Byte) (records : List (Byte × List Byte)) : Statement (.syncwrite start len records) := by
  refine of_packet rfl rfl rfl (fun h => ?_)
  simp only [Instr.wellFormed, Bool.and_eq_true, decide_eq_true_eq] at h
  exact h.2

theorem codecEncode (id : Byte) (instr : Byte) (k : Byte) : Statement (.codecEncode id instr k) :=
  of_command rfl rfl rfl rfl

theorem codecTransmit (expect : Bool) : Statement (.codecTransmit expect) :=
  of_command rfl rfl rfl rfl

theorem codecReceive (id : Byte) (any : Bool) (nexp : Byte) : Statement (.codecReceive id any nexp) :=
  of_command rfl rfl rfl rfl

theorem codecChecksum (n : Byte) : Statement (.codecChecksum n) :=
  of_command rfl rfl rfl rfl

theorem codecScan (id : Byte) (any : Bool) (n : Byte) : Statement (.codecScan id any n) :=
  of_command rfl rfl rfl rfl

theorem wordMake (b0 : Byte) (b1 : Byte) (e : Endian) : Statement (.wordMake b0 b1 e) :=
  of_command rfl rfl rfl rfl

theorem wordLobyte (e : Endian) : Statement (.wordLobyte e) :=
  of_command rfl rfl rfl rfl

theorem wordHibyte (e : Endian) : Statement (.wordHibyte e) :=
  of_command rfl rfl rfl rfl

theorem signToHost (x : BitVec 4) : Statement (.signToHost x) :=
  of_command rfl rfl rfl rfl

theorem signToDevice (x : BitVec 4) : Statement (.signToDevice x) :=
  of_command rfl rfl rfl rfl

theorem gswInit (start : Byte) (len : Byte) : Statement (.gswInit start len) :=
  of_command rfl rfl rfl rfl

theorem gswAdd (id : Byte) (n : Byte) : Statement (.gswAdd id n) :=
  of_command rfl rfl rfl rfl

theorem gswRemove (id : Byte) : Statement (.gswRemove id) :=
  of_command rfl rfl rfl rfl

theorem gswChange (id : Byte) (n : Byte) : Statement (.gswChange id n) :=
  of_command rfl rfl rfl rfl

theorem gswClear : Statement .gswClear :=
  of_command rfl rfl rfl rfl

theorem gswTransmit : Statement .gswTransmit :=
  of_command rfl rfl rfl rfl

theorem gsrInit (start : Byte) (len : Byte) : Statement (.gsrInit start len) :=
  of_command rfl rfl rfl rfl

theorem gsrAdd (id : Byte) : Statement (.gsrAdd id) :=
  of_command rfl rfl rfl rfl

theorem gsrRemove (id : Byte) : Statement (.gsrRemove id) :=
  of_command rfl rfl rfl rfl

theorem gsrClear : Statement .gsrClear :=
  of_command rfl rfl rfl rfl

theorem gsrTxreq : Statement .gsrTxreq :=
  of_command rfl rfl rfl rfl

theorem gsrRx : Statement .gsrRx :=
  of_command rfl rfl rfl rfl

theorem gsrIsAvailable (id : Byte) (address : Byte) (length : Byte) : Statement (.gsrIsAvailable id address length) :=
  of_command rfl rfl rfl rfl

theorem gsrGetValue (id : Byte) (address : Byte) : Statement (.gsrGetValue id address) :=
  of_command rfl rfl rfl rfl

theorem gsrIdResult (id : Byte) : Statement (.gsrIdResult id) :=
  of_command rfl rfl rfl rfl

end Sys2Proof.Laws.WireOrCommand
end

