-- ==== Sys2Proof/Laws/Window.lean ====
section
/-! SUPPORT. Lemmas about RX_CAP, the parts of the window, and the bytes that stores may touch. -/

namespace Sys2Proof.Machine

/-- R8: RX_CAP is at least 256. -/
theorem rxCap_ge : 256 ≤ Config.rxCap := by unfold Config.rxCap; omega

/-- R8: RX_CAP is at most 65535. -/
theorem rxCap_le : Config.rxCap ≤ 65535 := by unfold Config.rxCap; omega

/-- The bounds `fitsRxCap` answers by agree with RX_CAP itself. -/
theorem fitsRxCap_iff (n : Nat) : Config.fitsRxCap n = true ↔ n ≤ Config.rxCap := by
  have := rxCap_ge
  have := rxCap_le
  simp only [Config.fitsRxCap, Bool.or_eq_true, Bool.and_eq_true, decide_eq_true_eq]
  omega

theorem fitsRxCap_false_iff (n : Nat) : Config.fitsRxCap n = false ↔ Config.rxCap < n := by
  rw [← Bool.not_eq_true, fitsRxCap_iff]; omega

/-- PARAM_BUF, TX_BUF and PKT_BUF are buffers (R16). -/
theorem inBuffer_low {a : Nat} (h1 : 0x100 ≤ a) (h2 : a < 0x400) : inBuffer a = true := by
  unfold inBuffer areaOf
  rw [if_neg (by omega)]
  by_cases h3 : a < 0x200
  · rw [if_pos h3]
  · rw [if_neg h3]
    by_cases h4 : a < 0x300
    · rw [if_pos h4]
    · rw [if_neg h4, if_pos h2]

/-- RX_BUF is a buffer (R16, R29). -/
theorem inBuffer_rx {a : Nat} (h1 : 0x10000 ≤ a) (h2 : a < 0x10000 + Config.rxCap) : inBuffer a = true := by
  have := rxCap_le
  have hf : Config.fitsRxCap (a - 0x10000 + 1) = true := (fitsRxCap_iff _).2 (by omega)
  unfold inBuffer areaOf
  rw [if_neg (by omega), if_neg (by omega), if_neg (by omega), if_neg (by omega), if_neg (by omega), if_pos (by omega),
    if_pos hf]

/-- A store inside the buffers keeps the memory's canonical form and its place in the buffers. -/
theorem storeBytes_keeps {s : State} {off : Nat} {bs : List Byte} (hw : Memory.wf s.mem = true)
    (hb : ∀ c ∈ s.mem, inBuffer c.1 = true) (hr : ∀ a, off ≤ a → a < off + bs.length → inBuffer a = true) :
    Memory.wf (storeBytes off bs s).mem = true ∧ ∀ c ∈ (storeBytes off bs s).mem, inBuffer c.1 = true :=
  ⟨Memory.wf_storeAll _ _ _ hw,
   fun c hc => (Memory.mem_storeAll _ _ _ _ hc).elim (hb c) (fun h => hr _ h.1 h.2)⟩

end Sys2Proof.Machine
end

