-- ==== Sys2Proof/Tests/Slice0.lean ====
section
/-! SUPPORT. Tests. Expected results are from spec/95_test_vectors.md and the examples of the rules, named at each test. First the
checks and the decoder, then single steps of each family, then a witness for the hypotheses of each obligation. -/

namespace Sys2Proof.Tests
open Sys2Proof Sys2Proof.Machine

-- One theorem after another: with a thread for each kernel evaluation the compile runs out of stack space.
set_option Elab.async false

/-! ### Small states -/

/-- The reset state with a transport whose next writes complete in full, as the vectors assume. -/
def quiet : State := { State.reset with transport := { rxq := [], answers := [.count 250, .count 250], log := [] } }

/-- A state with one input left. -/
def given (e : Input) (s : State) : State := { s with inputs := [e] }

/-- What a step on one input leaves in the fields asked for; `none` if it stops. -/
def after {α : Type} (e : Input) (s : State) (f : State → α) : Option α :=
  match step (given e s) with
  | .next t => some (f t)
  | _ => none

/-- The launch of a command word. -/
def cmd (w : Word) : Input := .write 0x000 4 w

/-- STATUS and RESULT as the host reads them. -/
def statusResult (s : State) : Nat × Nat := ((memRead s 0x004 4).toNat, (memRead s 0x00C 4).toNat)

/-- STATUS and GSWINFO. -/
def gswView (s : State) : Nat × Nat := ((memRead s 0x004 4).toNat, (memRead s 0x01C 4).toNat)

/-- STATUS and GSRINFO. -/
def gsrView (s : State) : Nat × Nat := ((memRead s 0x004 4).toNat, (memRead s 0x020 4).toNat)

/-- A write group of zero payloads. -/
def gswOf (start len : Byte) (ids : List Nat) : Gsw :=
  { start := start, len := len,
    devs := mapEntries
      (fun i d => if ids.contains i then { present := true, slot := List.replicate len.toNat 0 } else d)
      State.reset.gsw.devs,
    phase := if ids = [] then .empty else .populated, dirty := true, flat := [] }

/-- A read group of zero slots. -/
def gsrOf (start len : Byte) (ids : List Nat) : Gsr :=
  { start := start, len := len,
    devs := mapEntries
      (fun i d => if ids.contains i then { d with present := true, slot := List.replicate len.toNat 0 } else d)
      State.reset.gsr.devs,
    phase := if ids = [] then .empty else .populated, dirty := true, lastOk := false, flat := [] }

/-- Set-up S of V9. -/
def setupS : State := { quiet with gsr := gsrOf 0x38 2 [1, 2, 3] }

/-- S after `gsr.txreq`. -/
def requested : State :=
  { quiet with gsr := { setupS.gsr with phase := .txSent, dirty := false, flat := [1, 2, 3] }, busy := true, owner := .gsr }

/-- S after `gsr.txreq; gsr.rx`. -/
def collecting : State :=
  { requested with gsr := { requested.gsr with phase := .rxPending }, active := some (.gsrRx 24), code := .rxWaiting,
                   timer := true }

/-- An active `gsr.rx` that has collected bytes. -/
def collected (bytes : List Byte) : State :=
  { storeBytes rxBase bytes collecting with rxCount := BitVec.ofNat 16 bytes.length }

/-- An active `codec.receive 1, 0, 8`. -/
def receiving : State :=
  { quiet with busy := true, owner := .codec, active := some (.codecReceive 1 false 8), code := .rxWaiting, timer := true }

/-- The good frames of V9. -/
def s1 : List Byte := [0xFF, 0xFF, 0x01, 0x04, 0x00, 0x00, 0x08, 0xF2]
def s2 : List Byte := [0xFF, 0xFF, 0x02, 0x04, 0x00, 0xD0, 0x07, 0x22]
def s3 : List Byte := [0xFF, 0xFF, 0x03, 0x04, 0x20, 0xFF, 0x0F, 0xCA]

/-- ID 2's corrupted frame (E7). -/
def s2bad : List Byte := [0xFF, 0xFF, 0x02, 0x04, 0x00, 0xD0, 0x06, 0x22]

/-- The frame of `codec.encode 1, 1, 0` in TX_BUF (V4). -/
def encoded : State := loadFrame [0xFF, 0xFF, 0x01, 0x02, 0x01, 0xFB] quiet

/-! ### WellFormed: each check refuses an ill-formed term -/

/-- R60: 245 parameters are one too many. -/
theorem test_wellFormed_write_too_long :
    (Instr.write 1 0x2A (List.replicate 244 0)).wellFormed = false ∧
    (Instr.write 1 0x2A (List.replicate 243 0)).wellFormed = true := by decide +kernel
theorem test_wellFormed_regwrite_too_long : (Instr.regwrite 1 0x2A (List.replicate 244 0)).wellFormed = false := by
  decide +kernel
theorem test_wellFormed_syncread_too_long : (Instr.syncread 0x38 2 (List.replicate 243 1)).wellFormed = false := by
  decide +kernel
/-- R64: a payload that is not L bytes long. -/
theorem test_wellFormed_syncwrite_payload : (Instr.syncwrite 0x2A 2 [(1, [0, 0]), (2, [0])]).wellFormed = false := by
  decide +kernel
theorem test_wellFormed_syncwrite_too_long :
    (Instr.syncwrite 0x2A 0 (List.replicate 243 (1, []))).wellFormed = false := by decide +kernel

/-! ### Decode: a word of the spec for every instruction -/

theorem test_decode_ping : decode (.packet [0xFF, 0xFF, 0x01, 0x02, 0x01, 0xFB]) = .ok (.ping 1) := by decide +kernel
theorem test_decode_read :
    decode (.packet [0xFF, 0xFF, 0x01, 0x04, 0x02, 0x38, 0x02, 0xBE]) = .ok (.read 1 0x38 2) := by decide +kernel
theorem test_decode_write :
    decode (.packet [0xFF, 0xFF, 0x01, 0x05, 0x03, 0x2A, 0x00, 0x08, 0xC4]) = .ok (.write 1 0x2A [0x00, 0x08]) := by
  decide +kernel
theorem test_decode_regwrite :
    decode (.packet [0xFF, 0xFF, 0x01, 0x05, 0x04, 0x2A, 0x00, 0x08, 0xC3]) = .ok (.regwrite 1 0x2A [0x00, 0x08]) := by
  decide +kernel
theorem test_decode_action : decode (.packet [0xFF, 0xFF, 0xFE, 0x02, 0x05, 0xFA]) = .ok (.action 0xFE) := by decide +kernel
theorem test_decode_syncread :
    decode (.packet [0xFF, 0xFF, 0xFE, 0x07, 0x82, 0x38, 0x02, 0x01, 0x02, 0x03, 0x38]) =
      .ok (.syncread 0x38 2 [1, 2, 3]) := by decide +kernel
theorem test_decode_syncwrite :
    decode (.packet [0xFF, 0xFF, 0xFE, 0x12, 0x83, 0x2A, 0x06, 0x01, 0x00, 0x00, 0x08, 0xE8, 0x03, 0x09, 0x02, 0x00, 0x00,
      0x00, 0x00, 0x00, 0x00, 0x3D]) =
      .ok (.syncwrite 0x2A 6 [(1, [0x00, 0x00, 0x08, 0xE8, 0x03, 0x09]), (2, [0, 0, 0, 0, 0, 0])]) := by decide +kernel
theorem test_decode_codecEncode : decode (.command 0x03030101) = .ok (.codecEncode 1 3 3) := by decide +kernel
theorem test_decode_codecTransmit : decode (.command 0x00000102) = .ok (.codecTransmit true) := by decide +kernel
theorem test_decode_codecReceive : decode (.command 0x08000103) = .ok (.codecReceive 1 false 8) := by decide +kernel
theorem test_decode_codecChecksum : decode (.command 0x05000004) = .ok (.codecChecksum 5) := by decide +kernel
theorem test_decode_codecScan : decode (.command 0x11000105) = .ok (.codecScan 1 false 17) := by decide +kernel
theorem test_decode_wordMake : decode (.command 0x03341210) = .ok (.wordMake 0x12 0x34 .big) := by decide +kernel
theorem test_decode_wordLobyte : decode (.command 0x01000011) = .ok (.wordLobyte .big) := by decide +kernel
theorem test_decode_wordHibyte : decode (.command 0x00000012) = .ok (.wordHibyte .small) := by decide +kernel
/-- B = 0x1F: B[7:4] is ignored (V7). -/
theorem test_decode_signToHost : decode (.command 0x001F0013) = .ok (.signToHost 15) := by decide +kernel
theorem test_decode_signToDevice : decode (.command 0x000F0014) = .ok (.signToDevice 15) := by decide +kernel
theorem test_decode_gswInit : decode (.command 0x062A0020) = .ok (.gswInit 42 6) := by decide +kernel
theorem test_decode_gswAdd : decode (.command 0x06000121) = .ok (.gswAdd 1 6) := by decide +kernel
theorem test_decode_gswRemove : decode (.command 0x00000122) = .ok (.gswRemove 1) := by decide +kernel
theorem test_decode_gswChange : decode (.command 0x02000223) = .ok (.gswChange 2 2) := by decide +kernel
theorem test_decode_gswClear : decode (.command 0x00000024) = .ok .gswClear := by decide +kernel
theorem test_decode_gswTransmit : decode (.command 0x00000025) = .ok .gswTransmit := by decide +kernel
theorem test_decode_gsrInit : decode (.command 0x02380030) = .ok (.gsrInit 0x38 2) := by decide +kernel
theorem test_decode_gsrAdd : decode (.command 0x00000431) = .ok (.gsrAdd 4) := by decide +kernel
theorem test_decode_gsrRemove : decode (.command 0x00000932) = .ok (.gsrRemove 9) := by decide +kernel
theorem test_decode_gsrClear : decode (.command 0x00000033) = .ok .gsrClear := by decide +kernel
theorem test_decode_gsrTxreq : decode (.command 0x00000034) = .ok .gsrTxreq := by decide +kernel
theorem test_decode_gsrRx : decode (.command 0x00000035) = .ok .gsrRx := by decide +kernel
theorem test_decode_gsrIsAvailable : decode (.command 0x02380236) = .ok (.gsrIsAvailable 2 0x38 2) := by decide +kernel
theorem test_decode_gsrGetValue : decode (.command 0x00390237) = .ok (.gsrGetValue 2 0x39) := by decide +kernel
theorem test_decode_gsrIdResult : decode (.command 0x00000338) = .ok (.gsrIdResult 3) := by decide +kernel

/-- The reserved ranges of R68 (V10). -/
theorem test_decode_reserved :
    [0x00, 0x06, 0x0F, 0x15, 0x1F, 0x26, 0x2F, 0x39, 0xFF].all
      (fun op => decode (.command (BitVec.ofNat 32 op)) == .error (.reservedOp (BitVec.ofNat 8 op))) = true := by
  decide +kernel
/-- E3: a frame with a changed byte is no instruction; E1 with LEN 4 instead of 5. -/
theorem test_decode_invalid_frame :
    decode (.packet [0xFF, 0xFF, 0x01, 0x04, 0x03, 0x2A, 0x00, 0x08, 0xC4]) = .error .invalidFrame := by decide +kernel
/-- R65: INSTR 0 is framed but is no instruction (V1). -/
theorem test_decode_unknown_instr :
    decode (.packet [0xFF, 0xFF, 0x00, 0x02, 0x00, 0xFD]) = .error (.unknownInstr 0) := by decide +kernel
/-- The table's numbering (log 8). -/
theorem test_table_rows :
    decodeTableWord 32 0x01 = some (.codecEncode 0 0 0) ∧ decodeTableWord 8 0x01 = some (.ping 0) ∧
    decodeTableWord 8 0x83 = some (.syncwrite 0 0 []) ∧ decodeTableWord 8 0x38 = some (.gsrIdResult 0) := by decide +kernel

/-! ### Single steps -/

/-- E1 as commands: the frame, TXINFO, and the little-endian window. -/
theorem test_codecEncode_E1 :
    after (cmd 0x03030101) (storeParams [0x2A, 0x00, 0x08] quiet)
      (fun t => (txFrame t, (memRead t 0x200 4).toNat, (memRead t 0x204 4).toNat, (memRead t 0x014 4).toNat)) =
      some ([0xFF, 0xFF, 0x01, 0x05, 0x03, 0x2A, 0x00, 0x08, 0xC4], 0x0501FFFF, 0x08002A03, 9) := by decide +kernel
/-- V1: k = 245 is TxError. -/
theorem test_codecEncode_too_long :
    after (cmd 0xF5030101) encoded (fun t => ((memRead t 0x004 4).toNat, t.txLen)) = some (3, 0) := by decide +kernel
/-- V1: the wire instructions' frames. -/
theorem test_ping : after (.packet [0xFF, 0xFF, 0x01, 0x02, 0x01, 0xFB]) quiet txFrame =
    some [0xFF, 0xFF, 0x01, 0x02, 0x01, 0xFB] := by decide +kernel
theorem test_read : (match exec (.read 1 0x38 2) quiet with | .next t => some (txFrame t, t.txLen) | _ => none) =
    some ([0xFF, 0xFF, 0x01, 0x04, 0x02, 0x38, 0x02, 0xBE], 8) := by decide +kernel
theorem test_write : (match exec (.write 1 0x2A [0x00, 0x08]) quiet with | .next t => some (txFrame t) | _ => none) =
    some [0xFF, 0xFF, 0x01, 0x05, 0x03, 0x2A, 0x00, 0x08, 0xC4] := by decide +kernel
theorem test_regwrite : (match exec (.regwrite 1 0x2A [0x00, 0x08]) quiet with | .next t => some (txFrame t) | _ => none) =
    some [0xFF, 0xFF, 0x01, 0x05, 0x04, 0x2A, 0x00, 0x08, 0xC3] := by decide +kernel
theorem test_action : (match exec (.action 0xFE) quiet with | .next t => some (txFrame t) | _ => none) =
    some [0xFF, 0xFF, 0xFE, 0x02, 0x05, 0xFA] := by decide +kernel
theorem test_syncread : (match exec (.syncread 0x38 2 [1, 2, 3]) quiet with | .next t => some (txFrame t) | _ => none) =
    some [0xFF, 0xFF, 0xFE, 0x07, 0x82, 0x38, 0x02, 0x01, 0x02, 0x03, 0x38] := by decide +kernel
/-- V8's frame of one record. -/
theorem test_syncwrite :
    (match exec (.syncwrite 0x2A 6 [(1, [0xAA, 0xBB, 0, 0, 0, 0])]) quiet with | .next t => some (txFrame t) | _ => none) =
    some [0xFF, 0xFF, 0xFE, 0x0B, 0x83, 0x2A, 0x06, 0x01, 0xAA, 0xBB, 0, 0, 0, 0, 0xDD] := by decide +kernel
/-- V4: the guard is kept with EXPECT; a short write fails, and a count of all 6 bytes is no short write (R132). -/
theorem test_codecTransmit_expect :
    after (cmd 0x00000102) encoded (fun t => ((memRead t 0x004 4).toNat, t.transport.log)) =
      some (0x600, [([0xFF, 0xFF, 0x01, 0x02, 0x01, 0xFB], .full)]) := by decide +kernel
theorem test_codecTransmit_short :
    after (cmd 0x00000102) { encoded with transport := { rxq := [1], answers := [.count 5], log := [] } }
      (fun t => ((memRead t 0x004 4).toNat, t.transport.rxq, t.transport.log.map Prod.snd)) = some (2, [], [.short 5]) ∧
    after (cmd 0x00000102) { encoded with transport := { rxq := [1], answers := [.count 6], log := [] } }
      (fun t => ((memRead t 0x004 4).toNat, t.transport.log.map Prod.snd)) = some (0x600, [.full]) := by decide +kernel
/-- V5: the launch, and the last byte of ID 1's frame. -/
theorem test_codecReceive_launch :
    after (cmd 0x08000103) { quiet with busy := true, owner := .codec }
      (fun t => ((memRead t 0x004 4).toNat, (memRead t 0x018 4).toNat)) = some (0x705, 0) := by decide +kernel
theorem test_codecReceive_last_byte :
    after .deliver
      { storeBytes rxBase (s1.take 7) receiving with
        rxCount := 7, transport := { receiving.transport with rxq := [0xF2, 0xAA] } }
      (fun t => ((memRead t 0x004 4).toNat, (memRead t 0x018 4).toNat, (memRead t 0x010 4).toNat, t.transport.rxq)) =
      some (0x2000, 0x00040008, 0x00020001, [0xAA]) := by decide +kernel
/-- V2: the sum 0x1FE wraps to 0xFE. -/
theorem test_codecChecksum_wraps :
    after (cmd 0x02000004) (storeParams [0xFF, 0xFF] quiet) statusResult = some (0, 1) := by decide +kernel
/-- V3: a frame behind garbage, and a bad checksum. -/
theorem test_codecScan_packet :
    after (cmd 0x0D000105) (storeParams ([0x12, 0x34, 0x56, 0x78, 0x9A] ++ s1) quiet)
      (fun t => (statusResult t, (memRead t 0x010 4).toNat)) = some ((0x2000, 0x0005000D), 0x00020001) := by decide +kernel
theorem test_codecScan_failed :
    after (cmd 0x08000105) { storeParams [0xFF, 0xFF, 0x01, 0x04, 0x00, 0x00, 0x08, 0xF3] quiet with pktValid := true }
      statusResult = some (7, 1) := by decide +kernel
/-- V3: a lone trailing 0xFF, LEN 247 and LEN 246. -/
theorem test_scan_incomplete : scan [0x05, 0xFF] false 1 = .incomplete 1 := by decide +kernel
theorem test_scan_length_limit :
    scan [0xFF, 0xFF, 0x01, 0xF7, 0x00] false 1 = .failed 0 ∧
    scan [0xFF, 0xFF, 0x01, 0xF6, 0x00] false 1 = .incomplete 0 := by decide +kernel
/-- V6. -/
theorem test_wordMake_small : after (cmd 0x00080010) quiet statusResult = some (0, 0x0800) := by decide +kernel
theorem test_wordMake_big : after (cmd 0x01080010) quiet statusResult = some (0, 0x0008) := by decide +kernel
theorem test_wordLobyte : after (cmd 0x00000011) { quiet with opa := 0xABCD1234 } statusResult = some (0, 0x34) := by
  decide +kernel
theorem test_wordLobyte_big : after (cmd 0x01000011) { quiet with opa := 0x0800 } statusResult = some (0, 8) := by
  decide +kernel
theorem test_wordHibyte : after (cmd 0x00000012) { quiet with opa := 0xFFFF0800 } statusResult = some (0, 8) := by
  decide +kernel
/-- V7: bit 11 is kept in the magnitude; the negation wraps. -/
theorem test_signToHost : after (cmd 0x000F0013) { quiet with opa := 0xFFFF8001 } statusResult = some (0, 0xFFFFFFFF) := by
  decide +kernel
theorem test_signToHost_above :
    after (cmd 0x000A0013) { quiet with opa := 0x0C00 } statusResult = some (0, 0xFFFFF800) := by decide +kernel
theorem test_signToDevice : after (cmd 0x000F0014) { quiet with opa := 0xFFFF63C0 } statusResult = some (0, 0x9C40) := by
  decide +kernel
theorem test_signToDevice_wraps :
    after (cmd 0x000F0014) { quiet with opa := 0x80000000 } statusResult = some (0, 0x80008000) := by decide +kernel
/-- V8. -/
theorem test_gswInit : after (cmd 0x062A0020) { quiet with gsw := gswOf 1 1 [3] } gswView = some (0, 0x0400062A) := by
  decide +kernel
theorem test_gswAdd :
    after (cmd 0x02000121) (storeParams [0xAA, 0xBB] { quiet with gsw := gswOf 0x2A 6 [] })
      (fun t => (gswView t, slotBytes 1 (gswDevOf t.gsw 1).slot 6)) =
      some ((0, 0x0501062A), [0xAA, 0xBB, 0, 0, 0, 0]) := by decide +kernel
theorem test_gswAdd_order : after (cmd 0x0900FD21) { quiet with gsw := gswOf 0x2A 6 [1] } gswView = some (12, 0x0501062A) := by
  decide +kernel
theorem test_gswRemove : after (cmd 0x00000122) { quiet with gsw := gswOf 0x2A 6 [1] } gswView = some (0, 0x0400062A) := by
  decide +kernel
theorem test_gswChange : after (cmd 0x07000123) { quiet with gsw := gswOf 0x2A 6 [1] } gswView = some (10, 0x0501062A) := by
  decide +kernel
theorem test_gswClear : after (cmd 0x00000024) { quiet with gsw := gswOf 0x2A 6 [1, 2] } gswView = some (0, 0x0400062A) := by
  decide +kernel
/-- V8, L = 0: bare IDs in ascending order. -/
theorem test_gswTransmit :
    after (cmd 0x00000025) { quiet with gsw := gswOf 0x10 0 [7, 3] } (fun t => (gswView t, txFrame t)) =
      some ((0, 0x02020010), [0xFF, 0xFF, 0xFE, 0x06, 0x83, 0x10, 0x00, 0x03, 0x07, 0x5E]) := by decide +kernel
/-- V8, the frame limit: 35 records of 7 bytes. -/
theorem test_gswTransmit_too_long :
    after (cmd 0x00000025) { quiet with gsw := gswOf 0x2A 6 (List.range 35) } (fun t => (gswView t, t.txLen)) =
      some ((3, 0x0123062A), 0) := by decide +kernel
/-- V9. -/
theorem test_gsrInit : after (cmd 0x02380030) setupS gsrView = some (0, 0x08000238) := by decide +kernel
theorem test_gsrInit_locked : after (cmd 0x02380030) requested gsrView = some (0xA01, 0x02030238) := by decide +kernel
/-- The vector prints 0x0B030238, whose PHASE bits are 3; the fields it names and R25 give 0x09030238 (log 9). -/
theorem test_gsrAdd : after (cmd 0x00000331) { quiet with gsr := gsrOf 0x38 2 [1, 2] } gsrView = some (0, 0x09030238) := by
  decide +kernel
theorem test_gsrRemove : after (cmd 0x00000232) setupS gsrView = some (0, 0x09020238) := by decide +kernel
theorem test_gsrClear : after (cmd 0x00000033) setupS gsrView = some (0, 0x08000238) := by decide +kernel
theorem test_gsrTxreq :
    after (cmd 0x00000034) setupS (fun t => (gsrView t, t.transport.log)) =
      some ((0xA00, 0x02030238),
        [([0xFF, 0xFF, 0xFE, 0x07, 0x82, 0x38, 0x02, 0x01, 0x02, 0x03, 0x38], .full)]) := by decide +kernel
theorem test_gsrTxreq_too_many :
    after (cmd 0x00000034) { quiet with gsr := gsrOf 0 0 (List.range 243) } (fun t => (t.code, t.gsr.dirty)) =
      some (.txError, false) := by decide +kernel
theorem test_gsrRx : after (cmd 0x00000035) requested (fun t => (gsrView t, t.active)) =
    some ((0xB05, 0x03030238), some (.gsrRx 24)) := by decide +kernel
/-- E7: the last byte of the round with ID 2 corrupted. -/
theorem test_gsrRx_partial_failure :
    after .deliver
      { collected (s1 ++ s2bad ++ s3.take 7) with transport := { collecting.transport with rxq := [0xCA] } }
      (fun t => (gsrView t, (memRead t 0x018 4).toNat, [1, 2, 3].map (fun i => (gsrDevOf t.gsr i).idres),
        slotBytes 3 (gsrDevOf t.gsr 3).slot 2, (gsrDevOf t.gsr 3).iderr)) =
      some ((7, 0x05030238), 0x00010018, [.success, .rxCorrupt, .success], [0xFF, 0x0F], 0x20) := by decide +kernel
/-- V9: ID 2's frame has one parameter instead of two; the end by a read error. -/
theorem test_demux_wrong_count :
    (demux .count (collected (s1 ++ [0xFF, 0xFF, 0x02, 0x03, 0x00, 0xD0, 0x2A] ++ s3 ++ [0]))).code = .rxCorrupt ∧
    (demux .readError (collected s1)).code = .rxFail := by decide +kernel

/-- S after a round in which all three answered. -/
def complete : State := demux .count (collected (s1 ++ s2 ++ s3))

theorem test_round_complete : gsrView complete = (0, 0x14030238) := by decide +kernel
theorem test_gsrIsAvailable : after (cmd 0x02380236) complete statusResult = some (0, 1) := by decide +kernel
theorem test_gsrIsAvailable_past_end : after (cmd 0x02390236) complete statusResult = some (0, 0) := by decide +kernel
theorem test_gsrGetValue : after (cmd 0x00390237) complete statusResult = some (0, 7) := by decide +kernel
theorem test_gsrGetValue_past_end : after (cmd 0x003A0237) complete statusResult = some (8, 0) := by decide +kernel
theorem test_gsrIdResult : after (cmd 0x00000338) complete statusResult = some (0, 0x12000) := by decide +kernel
/-- V10: a dropped command, and OVERRUN cleared by writing 1 to it. -/
theorem test_drop :
    after (cmd 0x00020110) receiving statusResult = some (0x1705, 0) ∧
    after (.write 0x004 4 0x1000) { receiving with overrun := true } statusResult = some (0x705, 0) := by decide +kernel
/-- V11: a word at a byte offset, and a reserved offset. -/
theorem test_window :
    after (.write 0x104 4 0x44332211) quiet (fun t => (memRead t 0x106 1).toNat) = some 0x33 ∧
    after (.read 0x400 4) { quiet with busData := 5 } (fun t => t.busData.toNat) = some 0 ∧
    step (given (.read 0x102 4) quiet) = .fault (.busError 0x102 4) := by
  refine ⟨by decide +kernel, by decide +kernel, rfl⟩

/-! ### A check of soundness for concrete states -/

def gswCheck (g : Gsw) : Bool :=
  (decide (g.phase = .empty) == decide (gswCount g = 0)) && (g.dirty || g.flat == gswFlatten g) &&
    g.devs.toList.all (fun d => (!d.present || decide (g.len.toNat ≤ d.slot.length)) && decide (d.slot.length ≤ 255))

def gsrCheck (g : Gsr) : Bool :=
  (decide (g.phase = .empty) == decide (gsrCount g = 0)) && (g.dirty || g.flat == gsrFlatten g) &&
    g.devs.toList.all (fun d =>
      (!d.present || decide (g.len.toNat ≤ d.slot.length)) && decide (d.slot.length ≤ 255) && (!d.valid || d.present))

def activeCheck (s : State) : Bool :=
  match s.active with
  | none => decide (s.gsr.phase ≠ .rxPending) && !s.timer
  | some (.codecReceive _ _ _) =>
    decide (s.gsr.phase ≠ .rxPending) && s.timer && decide (s.code = .rxWaiting) && decide (s.owner = .codec) &&
      decide (s.rxCount.toNat < 250)
  | some (.gsrRx n) =>
    decide (s.gsr.phase = .rxPending) && s.timer && decide (s.code = .rxWaiting) && decide (n = gsrExpected s.gsr) &&
      decide (s.rxCount.toNat < n)

def soundCheck (s : State) : Bool :=
  Memory.wf s.mem && s.mem.all (fun c => inBuffer c.1) && (decide (s.owner = .nobody) == !s.busy) && gswCheck s.gsw &&
    gsrCheck s.gsr && (decide (s.gsr.phase = .txSent ∨ s.gsr.phase = .rxPending) == decide (s.owner = .gsr)) &&
    activeCheck s && decide (s.txLen = 0 ∨ (6 ≤ s.txLen.toNat ∧ s.txLen.toNat ≤ 250)) &&
    decide (s.pktInfo.count.toNat ≤ 244) && decide (s.rxCount.toNat ≤ 256) && decide (gsrExpected s.gsr ≤ 256) &&
    s.transport.log.isEmpty

theorem gswDevOf_all {g : Gsw} {P : GswDev → Prop} (h : ∀ d ∈ g.devs.toList, P d) (hr : P GswDev.reset) (i : Nat) :
    P (gswDevOf g i) := by
  unfold gswDevOf; split
  · exact h _ (by simp)
  · exact hr

theorem gsrDevOf_all {g : Gsr} {P : GsrDev → Prop} (h : ∀ d ∈ g.devs.toList, P d) (hr : P GsrDev.reset) (i : Nat) :
    P (gsrDevOf g i) := by
  unfold gsrDevOf; split
  · exact h _ (by simp)
  · exact hr

theorem gswSound_of_check {g : Gsw} (h : gswCheck g = true) : GswSound g := by
  simp only [gswCheck, Bool.and_eq_true, beq_iff_eq, decide_eq_decide, Bool.or_eq_true, List.all_eq_true,
    Bool.not_eq_true', decide_eq_true_eq] at h
  obtain ⟨⟨h1, h2⟩, h3⟩ := h
  refine ⟨h1, fun hd => h2.resolve_left (by simp [hd]),
    gswDevOf_all (P := fun d => d.present = true → g.len.toNat ≤ d.slot.length) (fun d hd hp => ?_) (fun h => by cases h),
    gswDevOf_all (P := fun d => d.slot.length ≤ 255) (fun d hd => (h3 d hd).2) (by simp [GswDev.reset])⟩
  exact (h3 d hd).1.resolve_left (by simp [hp])

theorem gsrSound_of_check {g : Gsr} (h : gsrCheck g = true) : GsrSound g := by
  simp only [gsrCheck, Bool.and_eq_true, beq_iff_eq, decide_eq_decide, Bool.or_eq_true, List.all_eq_true,
    Bool.not_eq_true', decide_eq_true_eq] at h
  obtain ⟨⟨h1, h2⟩, h3⟩ := h
  refine ⟨h1, fun hd => h2.resolve_left (by simp [hd]),
    gsrDevOf_all (P := fun d => d.present = true → g.len.toNat ≤ d.slot.length) (fun d hd hp => ?_) (fun h => by cases h),
    gsrDevOf_all (P := fun d => d.slot.length ≤ 255) (fun d hd => (h3 d hd).1.2) (by simp [GsrDev.reset]),
    gsrDevOf_all (P := fun d => d.valid = true → d.present = true) (fun d hd hv => ?_) (fun h => by cases h)⟩
  · exact (h3 d hd).1.1.resolve_left (by simp [hp])
  · exact (h3 d hd).2.resolve_left (by simp [hv])

theorem sound_of_check {s : State} (h : soundCheck s = true) : Sound s := by
  simp only [soundCheck, Bool.and_eq_true, beq_iff_eq, decide_eq_decide, List.all_eq_true, decide_eq_true_eq,
    List.isEmpty_iff] at h
  obtain ⟨⟨⟨⟨⟨⟨⟨⟨⟨⟨⟨h1, h2⟩, h3⟩, h4⟩, h5⟩, h6⟩, h7⟩, h8⟩, h9⟩, h10⟩, h11⟩, h12⟩ := h
  have hr := rxCap_ge
  have h3 : s.owner = .nobody ↔ s.busy = false := by
    cases hb : s.busy <;> simp_all
  unfold activeCheck at h7
  refine ⟨h1, h2, h3, gswSound_of_check h4, gsrSound_of_check h5, h6, ?_, ?_, ?_, ?_, h8, h9, by omega, ?_,
    fun _ => by omega, ?_, by simp [h12]⟩ <;>
  · cases ha : s.active with
    | none => simp_all
    | some c => cases c <;> simp_all <;> omega

/-! ### Witnesses: for each obligation with hypotheses, concrete data that meets them, clause by clause -/

/-- A register, the ends of the buffers and of the reserved areas; RX_BUF has at least 256 bytes. -/
theorem witness_HostReadHasNoSideEffect :
    (given (.read 0x1FC 4) quiet).inputs = .read 0x1FC 4 :: [] ∧
    [0x0FC, 0x100, 0x1FC, 0x200, 0x3FC, 0x400, 0xFFFC, 0x10000, 0x100FC].all (fun off => legalAccess off 4) = true ∧
    [0x100, 0x3FF, 0x400, 0xFFFF, 0x10000, 0x100FF, 0x1FFFF].all (fun off => legalAccess off 1) = true ∧
    0x100FF < 0x10000 + Config.rxCap ∧ 0x10000 + Config.rxCap ≤ 0x1FFFF :=
  ⟨by decide +kernel, by decide +kernel, by decide +kernel, by have := rxCap_ge; omega, by unfold Config.rxCap; omega⟩
theorem witness_IllegalAccessesAreBusErrors :
    legalAccess 0x0FC 4 = true ∧ legalAccess 0x100 1 = true ∧ legalAccess 0x0FF 1 = false ∧ legalAccess 0x1FE 4 = false ∧
    legalAccess 0x20000 1 = false ∧ (given (.read 0x1FE 4) quiet).inputs = [.read 0x1FE 4] ∧
    (given (.write 0x20000 1 0) quiet).inputs = [.write 0x20000 1 0] := by decide +kernel
theorem witness_ParamBufWritesReadBack :
    (given (.write 0x1FC 4 7) quiet).inputs = [.write 0x1FC 4 7] ∧ (given (.write 0x1FF 1 7) quiet).inputs = [.write 0x1FF 1 7]
      := by decide +kernel
theorem witness_ReadOnlyOffsetsIgnoreWrites :
    legalAccess 0x00C 4 = true ∧ legalAccess 0x200 1 = true ∧ legalAccess 0x1FFFF 1 = true ∧
    (given (.write 0x00C 4 7) quiet).inputs = [.write 0x00C 4 7] := by decide +kernel
theorem witness_OpaReadsBack : (given (.write 0x008 4 7) quiet).inputs = [.write 0x008 4 7] := by decide +kernel
theorem witness_StepRunsTheDecodedInstruction :
    (given (inputOf (.command 0x24)) quiet).inputs = [inputOf (.command 0x24)] ∧ quiet.active = none ∧
    decode (.command 0x24) = .ok .gswClear ∧
    decode (.packet [0xFF, 0xFF, 0x01, 0x02, 0x01, 0xFB]) = .ok (.ping 1) := by decide +kernel
theorem witness_DropSetsOnlyOverrun :
    receiving.active.isSome = true ∧ (given (cmd 0x24) receiving).inputs = [.write 0x000 4 0x24] ∧
    (given (.write 0x004 4 0xFFFFEFFF) receiving).inputs = [.write 0x004 4 0xFFFFEFFF] ∧
    (0xFFFFEFFF : Word).getLsbD 12 = false ∧ (0x1000 : Word).getLsbD 12 = true ∧
    after (.write 0x004 4 0xFFFFEFFF) { receiving with overrun := true } State.overrun = some true ∧
    after (.write 0x004 4 0x1000) { receiving with overrun := true } State.overrun = some false ∧
    after .reset { receiving with overrun := true } State.overrun = some false := by decide +kernel
theorem witness_ReservedOpsGiveBadCommand :
    ((0x06 : Word).toNat % 256 = 6) ∧ ((0x139 : Word).toNat % 256 = 0x39) ∧ quiet.active = none ∧
    [0x01, 0x05, 0x10, 0x14, 0x20, 0x25, 0x30, 0x38].all
      (fun op => (decode (.command (BitVec.ofNat 32 op))).toBool) = true := by decide +kernel
theorem witness_DecodeOfEncode :
    (Instr.write 1 2 (List.replicate 243 0)).wellFormed = true ∧ (Instr.syncwrite 1 2 [(3, [4, 5])]).wellFormed = true ∧
    (Instr.gswClear).wellFormed = true := by decide +kernel
theorem witness_PacketEncodingIsUnique :
    decode (.packet [0xFF, 0xFF, 0xFE, 0x02, 0x05, 0xFA]) = .ok (.action 0xFE) := by decide +kernel
/-- The longest parameters, and records of 1 and of no payload byte. -/
theorem witness_SampleWordsDecode :
    (List.replicate 243 (0 : Byte)).length ≤ 243 ∧ (List.replicate 242 (0 : Byte)).length ≤ 242 ∧
    (∀ r ∈ [((3 : Byte), [(4 : Byte)]), (5, [6])], r.2.length = (1 : Byte).toNat) ∧
    (∀ r ∈ List.replicate 242 ((7 : Byte), ([] : List Byte)), r.2.length = (0 : Byte).toNat) ∧
    (List.replicate 242 ((7 : Byte), ([] : List Byte))).length * ((0 : Byte).toNat + 1) ≤ 242 := by decide +kernel
theorem witness_CommandWordDecodesByItsFields : decode (.command 0xFFFFFF13) = .ok (.signToHost 15) := by decide +kernel
theorem witness_WireInstructionsBuildTheirFrames :
    [Instr.ping 1, .read 1 2 3, .write 1 2 (List.replicate 243 0), .regwrite 1 2 [3], .action 1, .syncread 1 2 [3],
      .syncwrite 1 2 [(3, [4, 5])]].all (fun i => (wireOpcode i).isSome && i.wellFormed) = true := by decide +kernel
/-- READ's two parameter writes and its CMD write (V1). -/
theorem witness_WireInstructionIsItsAccessSequence :
    (Instr.read 1 0x38 2).wellFormed = true ∧
    encode (.read 1 0x38 2) = .packet [0xFF, 0xFF, 0x01, 0x04, 0x02, 0x38, 0x02, 0xBE] ∧
    ({ quiet with inputs := [.write 0x100 1 0x38, .write 0x101 1 2, .write 0x000 4 0x02020101] } : State).inputs =
      (wireParams (.read 1 0x38 2)).zipIdx.map (fun bj => Input.write (0x100 + bj.2) 1 (bj.1.zeroExtend 32)) ++
        Input.write 0x000 4 (commandWord 0x01 1 2 2) :: [] ∧ quiet.active = none := by decide +kernel
theorem witness_BuiltFrameIsValidAndScans :
    (List.replicate 245 (0 : Byte)).length = 245 ∧ (List.replicate 244 (0 : Byte)).length ≤ 244 := by decide +kernel
theorem witness_SingleByteChangeInvalidates :
    validFrame s1 = true ∧ 0 < s1.length ∧ s1[0]? ≠ some 0xFE ∧ 7 < s1.length ∧ s1[7]? ≠ some 0xF3 := by decide +kernel
/-- V3 and E8: garbage without 0xFF, the same with a trailing 0xFF, and a frame of another ID before the expected one. -/
theorem witness_ScanResynchronises :
    (∀ b ∈ ([0x12, 0x34, 0x56, 0x78, 0x9A] : List Byte), b ≠ 0xFF) ∧ buildFrame 1 0 [0x00, 0x08] = some s1 ∧
    scan ([0x12, 0x34] ++ [0xFF] ++ s1 ++ [0xAA]) false 1 = .packet 3 ⟨1, 0, [0x00, 0x08]⟩ ∧
    scan (s2 ++ s1 ++ [0xAA]) false 1 = .packet 8 ⟨1, 0, [0x00, 0x08]⟩ ∧
    ∀ h, h < s2.length → (s2 ++ s1)[h]? = some 0xFF → (s2 ++ s1)[h + 1]? = some 0xFF → (s2 ++ s1)[h + 2]? ≠ some 1 := by
  decide +kernel
theorem witness_ScannedPacketIsAValidFrame :
    scan (0xAA :: s1) false 1 = .packet 1 ⟨1, 0, [0x00, 0x08]⟩ ∧ scan (0xFF :: s1) true 1 = .failed 0 := by decide +kernel
theorem witness_CodecEncodeResult : 244 < (245 : Byte).toNat ∧ (244 : Byte).toNat ≤ 244 := by decide +kernel
theorem witness_CodecTransmitResult :
    receiving.busy = true ∧ quiet.busy = false ∧ quiet.txLen = 0 ∧ encoded.busy = false ∧ encoded.txLen ≠ 0 ∧
    nextOutcome (txFrame encoded) encoded = .full ∧
    nextOutcome (txFrame encoded) { encoded with transport := { rxq := [], answers := [.error], log := [] } } ≠ .full := by
  decide +kernel
theorem witness_CodecReceiveLaunch : requested.owner = .gsr ∧ quiet.owner ≠ .gsr := by decide +kernel
/-- E8: five bytes of garbage, then ID 1's frame; two more bytes follow. -/
theorem witness_CodecReceiveDecodesAStreamedFrame :
    receiving.active = some (.codecReceive 1 false 8) ∧ receiving.rxCount = 0 ∧
    (∀ b ∈ ([0x12, 0x34, 0x56, 0x78, 0x9A] : List Byte), b ≠ 0xFF) ∧ buildFrame 1 0 [0x00, 0x08] = some s1 ∧
    ({ receiving with
        inputs := List.replicate 13 .deliver
        transport := { receiving.transport with rxq := [0x12, 0x34, 0x56, 0x78, 0x9A] ++ s1 ++ [0xAA, 0xBB] } } :
      State).inputs = List.replicate ([0x12, 0x34, 0x56, 0x78, 0x9A].length + s1.length) .deliver ++ [] := by decide +kernel
/-- The four answers of a scan of the bytes with one appended: the frame's last byte, a bad one, a first byte 0xFF, garbage. -/
theorem witness_CodecReceiveSteps :
    receiving.active = some (.codecReceive 1 false 8) ∧ receiving.rxCount.toNat < 250 ∧ receiving.timer = true ∧
    scan (rxBytes { storeBytes rxBase (s1.take 7) receiving with rxCount := 7 } ++ [0xF2]) false 1 =
      .packet 0 ⟨1, 0, [0x00, 0x08]⟩ ∧
    scan (rxBytes { storeBytes rxBase (s1.take 7) receiving with rxCount := 7 } ++ [0xF3]) false 1 = .failed 0 ∧
    scan (rxBytes receiving ++ [0xFF]) false 1 = .incomplete 0 ∧ scan (rxBytes receiving ++ [0x12]) false 1 = .noHeader 1 ∧
    (given .timeout receiving).inputs = [.timeout] ∧ (given .readError receiving).inputs = [.readError] := by
  decide +kernel
theorem witness_CodecScanResult :
    scan (bytesOf (storeParams s1 quiet) 0x100 8) false 1 = .packet 0 ⟨1, 0, [0x00, 0x08]⟩ ∧
    scan (bytesOf (storeParams s2bad quiet) 0x100 8) false 2 = .failed 0 ∧
    scan (bytesOf (storeParams s1 quiet) 0x100 6) false 1 = .incomplete 0 ∧
    scan (bytesOf quiet 0x100 0) false 1 = .noHeader 0 := by decide +kernel
theorem witness_EndianSymmetry :
    after (cmd 0x00000011) { quiet with opa := 0x1234 } State.result = some 0x34 ∧
    after (cmd 0x00000012) { quiet with opa := 0x1234 } State.result = some 0x12 ∧
    after (cmd 0x00123410) quiet State.result = some 0x1234 := by decide +kernel
theorem witness_SignToDeviceResult : 0 ≤ (0x7FFFFFFF : Word).toInt ∧ (0x80000000 : Word).toInt < 0 := by decide +kernel
/-- E4: the ends of the range for s = 15. -/
theorem witness_SignRoundTrip :
    after (cmd 0x000F0014) { quiet with opa := BitVec.ofInt 32 (-32767) } State.result = some 0xFFFF ∧
    after (cmd 0x000F0013) { quiet with opa := 0xFFFF } State.result = some (BitVec.ofInt 32 (-32767)) ∧
    -(2 ^ (15 : BitVec 4).toNat - 1) ≤ (-32767 : Int) ∧ (32767 : Int) ≤ 2 ^ (15 : BitVec 4).toNat - 1 ∧
    -(2 ^ (0 : BitVec 4).toNat - 1) ≤ (0 : Int) := by decide +kernel
theorem witness_GswAddResult :
    0xFC < (0xFD : Byte).toNat ∧ (0xFC : Byte).toNat ≤ 0xFC ∧ (gswDevOf (gswOf 0x2A 6 [0xFC]) 0xFC).present = true ∧
    (gswDevOf (gswOf 0x2A 6 [1]) 0xFC).present = false ∧ (gswOf 0x2A 6 [1]).len.toNat < (7 : Byte).toNat ∧
    (6 : Byte).toNat ≤ (gswOf 0x2A 6 [1]).len.toNat := by decide +kernel
theorem witness_GswRemoveAndChangeResult :
    (gswDevOf (gswOf 0x2A 6 [0xFC]) 0xFC).present = true ∧ (gswDevOf (gswOf 0x2A 6 [1]) 0xFC).present = false ∧
    (gswOf 0x2A 6 [0xFC]).len.toNat < (7 : Byte).toNat ∧ (6 : Byte).toNat ≤ (gswOf 0x2A 6 [0xFC]).len.toNat := by
  decide +kernel
theorem witness_GswRebuildListsOneRecordPerId :
    (gswOf 0x10 1 [7, 3]).dirty = true ∧ (rebuildGsw (gswOf 0x10 1 [7, 3])).flat = [3, 0, 7, 0] := by decide +kernel
/-- 242 bare IDs are a frame of exactly 250 bytes, 243 of 251. -/
theorem witness_GswTransmitResult :
    gswCount quiet.gsw = 0 ∧ gswCount (gswOf 0 0 [1]) ≠ 0 ∧ receiving.busy = true ∧ quiet.busy = false ∧
    8 + (gswFlatten (gswOf 0 0 (List.range 242))).length = 250 ∧
    250 < 8 + (gswFlatten (gswOf 0 0 (List.range 243))).length ∧ nextOutcome s1 quiet = .full := by decide +kernel
theorem witness_GswTransmitTwiceSendsTheSame :
    after (cmd 0x00000025) { quiet with gsw := gswOf 0x10 0 [7, 3] }
      (fun t => (t.code, after (cmd 0x00000025) t State.code)) = some (.success, some .success) := by decide +kernel
theorem witness_GsrInitAddRemoveClearResult :
    requested.gsr.phase = .txSent ∧ setupS.gsr.phase ≠ .txSent ∧ 0xFC < (0xFD : Byte).toNat ∧
    (gsrDevOf setupS.gsr 3).present = true ∧ (0xFC : Byte).toNat ≤ 0xFC ∧ (gsrDevOf setupS.gsr 0xFC).present = false := by
  decide +kernel
theorem witness_GsrRebuildListsThePresentIds : setupS.gsr.dirty = true ∧ (rebuildGsr setupS.gsr).flat = [1, 2, 3] := by
  decide +kernel
/-- 4 IDs of 58 parameters are 256 bytes of replies, which fit in any RX_CAP; 243 bare IDs are a frame of 251 bytes. -/
theorem witness_GsrTxreqResult :
    gsrCount quiet.gsr = 0 ∧ gsrCount setupS.gsr ≠ 0 ∧ requested.busy = true ∧ gsrCount requested.gsr ≠ 0 ∧
    setupS.busy = false ∧ 250 < 8 + (gsrFlatten (gsrOf 0 0 (List.range 243))).length ∧
    8 + (gsrFlatten (gsrOf 0 58 [0, 1, 2, 3])).length ≤ 250 ∧
    Config.fitsRxCap (gsrCount (gsrOf 0 58 [0, 1, 2, 3]) * ((gsrOf 0 58 [0, 1, 2, 3]).len.toNat + 6)) = true ∧
    nextOutcome s1 setupS = .full := by decide +kernel
theorem witness_GsrRxLaunch : requested.gsr.phase = .txSent ∧ setupS.gsr.phase ≠ .txSent := by decide +kernel
/-- A byte before the last, the last one, a timeout after bytes and a read error. -/
theorem witness_GsrRxCollectsEveryByte :
    Sound { collected (s1 ++ s2 ++ s3.take 6) with
      transport := { collecting.transport with rxq := [0x0F, 0xCA] }, inputs := [.deliver] } ∧
    Sound { collected (s1 ++ s2 ++ s3.take 7) with
      transport := { collecting.transport with rxq := [0xCA] }, inputs := [.deliver] } ∧
    Sound (given .timeout (collected s1)) ∧ Sound (given .readError (collected s1)) ∧
    collecting.active = some (.gsrRx 24) ∧ (collected (s1 ++ s2 ++ s3.take 6)).rxCount.toNat + 1 < 24 ∧
    (collected (s1 ++ s2 ++ s3.take 7)).rxCount.toNat + 1 = 24 :=
  ⟨sound_of_check (by decide +kernel), sound_of_check (by decide +kernel), sound_of_check (by decide +kernel),
   sound_of_check (by decide +kernel), by decide +kernel, by decide +kernel, by decide +kernel⟩

/-- Whether a place of the bytes looks like the header of a frame of an ID, as the hypotheses of PartialFailureIsolation say. -/
def headerAt (b : List Byte) (x : Byte) (h : Nat) : Bool :=
  decide (b[h]? = some 0xFF) && decide (b[h + 1]? = some 0xFF) && decide (b[h + 2]? = some x)

theorem header_only {b : List Byte} {x : Byte} {k : Nat}
    (hall : (List.range b.length).all (fun h => !headerAt b x h || decide (h = k)) = true) (h : Nat) :
    b[h]? = some 0xFF → b[h + 1]? = some 0xFF → b[h + 2]? = some x → h = k := by
  intro h0 h1 h2
  have hlt : h < b.length := (List.getElem?_eq_some_iff.1 h0).1
  have := List.all_eq_true.1 hall h (List.mem_range.2 hlt)
  simpa [headerAt, h0, h1, h2] using this

/-- E7. -/
theorem witness_PartialFailureIsolation :
    gsrIds (collected (s1 ++ s2bad ++ s3)).gsr = [(1 : Byte).toNat, (2 : Byte).toNat, (3 : Byte).toNat] ∧
    (collected (s1 ++ s2bad ++ s3)).gsr.len.toNat = 2 ∧ buildFrame 1 0 [0x00, 0x08] = some s1 ∧
    buildFrame 2 0 [0xD0, 0x06] = some (s2bad.dropLast ++ [0x23]) ∧ buildFrame 3 0x20 [0xFF, 0x0F] = some s3 ∧
    (s2bad.dropLast ++ [0x23]).getLast? ≠ some 0x22 ∧ rxBytes (collected (s1 ++ s2bad ++ s3)) = s1 ++ s2bad ++ s3 ∧
    (∀ h, (s1 ++ s2bad ++ s3)[h]? = some 0xFF → (s1 ++ s2bad ++ s3)[h + 1]? = some 0xFF →
      (s1 ++ s2bad ++ s3)[h + 2]? = some 2 → h = s1.length) ∧
    (∀ h, (s1 ++ s2bad ++ s3)[h]? = some 0xFF → (s1 ++ s2bad ++ s3)[h + 1]? = some 0xFF →
      (s1 ++ s2bad ++ s3)[h + 2]? = some 3 → h = s1.length + s2bad.length) :=
  ⟨by decide +kernel, by decide +kernel, by decide +kernel, by decide +kernel, by decide +kernel, by decide +kernel,
   by decide +kernel, header_only (by decide +kernel), header_only (by decide +kernel)⟩
theorem witness_GsrTimeoutWithoutBytes :
    collecting.active = some (.gsrRx 24) ∧ collecting.timer = true ∧ collecting.rxCount = 0 ∧
    gsrCount collecting.gsr ≠ 0 ∧ (given .timeout collecting).inputs = [.timeout] := by decide +kernel
/-- Two different sets with the same entry for ID 1; each answer of the first scan for an ID; and two codes that differ, of which
the higher ID's is the overall one. -/
theorem witness_DemuxIsIndependentPerId :
    (rxBytes (collected s1) = rxBytes { collected s1 with gsr := gsrOf 0x38 2 [1] } ∧
      (collected s1).gsr.len = (gsrOf 0x38 2 [1]).len ∧ gsrDevOf (collected s1).gsr 1 = gsrDevOf (gsrOf 0x38 2 [1]) 1) ∧
    (scan (rxBytes (collected (s1 ++ s2bad))) false 1 = .packet 0 ⟨1, 0, [0x00, 0x08]⟩ ∧
      scan (rxBytes (collected (s1 ++ s2bad))) false 2 = .failed 8 ∧
      scan (rxBytes (collected (s1 ++ s2bad))) false 3 = .noHeader 16 ∧
      scan (rxBytes (collected (s2.take 5))) false 2 = .incomplete 0 ∧
      scan (rxBytes (collected ([0xFF, 0xFF, 0x02, 0x03, 0x00, 0xD0, 0x2A] ++ s2))) false 2 = .packet 0 ⟨2, 0, [0xD0]⟩) ∧
    ((collected (s2bad.drop 1)).gsr = (collected s2bad).gsr ∧
      rxBytes (collected (s2bad.drop 1)) = (rxBytes (collected s2bad)).drop (0 + 1)) ∧
    (demux .timeout (collected (s1 ++ s2bad))).code = .rxTimeout ∧
    (demux .count (collected (s1 ++ s2 ++ s3))).code = .success := by
  decide +kernel
/-- The last byte of the window is available, one more is not. -/
theorem witness_GsrQueryResults :
    (gsrDevOf complete.gsr 2).present = true ∧ (gsrDevOf complete.gsr 2).valid = true ∧
    complete.gsr.start.toNat ≤ (0x39 : Byte).toNat ∧
    (0x39 : Byte).toNat + 1 ≤ complete.gsr.start.toNat + complete.gsr.len.toNat ∧
    ¬ (0x39 : Byte).toNat + 2 ≤ complete.gsr.start.toNat + complete.gsr.len.toNat := by decide +kernel
theorem witness_GsrIdResultResult :
    (gsrDevOf complete.gsr 3).present = true ∧ (gsrDevOf complete.gsr 0xFC).present = false := by decide +kernel
/-- A step with the guard held by each owner. -/
theorem witness_GuardIsHeldUntilTheReceiveEnds :
    (Sound (given .timeout collecting) ∧ (given .timeout collecting).owner = .gsr ∧
      after .timeout collecting State.owner = some .nobody) ∧
    (Sound (given .timeout receiving) ∧ (given .timeout receiving).owner = .codec ∧
      after .timeout receiving State.owner = some .nobody) :=
  ⟨⟨sound_of_check (by decide +kernel), rfl, by decide +kernel⟩, ⟨sound_of_check (by decide +kernel), rfl, by decide +kernel⟩⟩
/-- A transmit, each answer of the transport, an arriving byte, and a delivery while no receive is active. -/
theorem witness_OnlyTransmitsWriteToTheBus :
    (nextAnswer quiet = .count 250 ∧
      nextAnswer { quiet with transport := { rxq := [], answers := [.error], log := [] } } = .error) ∧
    ((given (.arrive 7) receiving).inputs = [.arrive 7] ∧ (given .deliver quiet).inputs = [.deliver] ∧
      quiet.active = none) ∧
    after (cmd 0x00000002) encoded (fun t => t.transport.log) ≠ some encoded.transport.log ∧
    (after (cmd 0x00000002) encoded State.code).isSome = true := by decide +kernel
theorem witness_EveryReceiveEnds :
    Sound (given .timeout receiving) ∧
    (match Host.Core.run core ((given (.arrive 7) receiving).inputs.length + 1) (given (.arrive 7) receiving) with
      | .next t => t.active = none
      | _ => False) := ⟨sound_of_check (by decide +kernel), rfl⟩
theorem witness_ResetLeavesTheResetValues : (given .reset collecting).inputs = [.reset] := by decide +kernel
theorem witness_EveryStepKeepsSoundness :
    Sound (given .deliver { receiving with transport := { receiving.transport with rxq := [0xFF] } }) ∧
    after .deliver { receiving with transport := { receiving.transport with rxq := [0xFF] } } (fun t => t.rxCount) = some 1 :=
  ⟨sound_of_check (by decide +kernel), by decide +kernel⟩
theorem witness_OnlyTheHostStopsTheMachine :
    step (given (.read 0x102 4) quiet) = .fault (.busError 0x102 4) ∧
    step (given (.packet [0xFF]) quiet) = .refused .notAnInstructionPacket := ⟨rfl, rfl⟩

end Sys2Proof.Tests
end

section
/-! SUPPORT. What every step answers: a property of each next state (`EveryNext`), the soundness of the two group engines through
the soundness of each table entry, and their rules for every update of a table. -/

namespace Sys2Proof.Machine

/-! ### Properties of the next state -/

/-- Every next state of an outcome has the property; a fault and a refusal have no next state. -/
def EveryNext (P : State → Prop) (o : Host.Outcome State Fault Refusal) : Prop := ∀ t, o = .next t → P t

@[simp] theorem everyNext_next {P : State → Prop} {t : State} : EveryNext P (.next t) ↔ P t :=
  ⟨fun h => h t rfl, fun h _ hu => by cases hu; exact h⟩

@[simp] theorem everyNext_fault {P : State → Prop} {r : Fault} : EveryNext P (.fault r) := fun _ h => by cases h

@[simp] theorem everyNext_refused {P : State → Prop} {r : Refusal} : EveryNext P (.refused r) := fun _ h => by cases h

/-! ### The entries of the GSW table -/

/-- What `GswSound` asks of one entry (R31). -/
def GswDev.Ok (len : Byte) (d : GswDev) : Prop :=
  (d.present = true → len.toNat ≤ d.slot.length) ∧ d.slot.length ≤ Config.slotBytes

theorem GswDev.reset_ok (len : Byte) : GswDev.reset.Ok len := ⟨nofun, Nat.zero_le _⟩

theorem gswSound_iff (g : Gsw) :
    GswSound g ↔ (g.phase = .empty ↔ gswCount g = 0) ∧ (g.dirty = false → g.flat = gswFlatten g) ∧
      ∀ i, (gswDevOf g i).Ok g.len :=
  ⟨fun h => ⟨h.phase, h.flat, fun i => ⟨h.written i, h.slots i⟩⟩,
   fun ⟨hp, hf, ho⟩ => ⟨hp, hf, fun i => (ho i).1, fun i => (ho i).2⟩⟩

theorem GswSound.ok {g : Gsw} (hg : GswSound g) (i : Nat) : (gswDevOf g i).Ok g.len := ((gswSound_iff g).1 hg).2.2 i

theorem gswCount_ne_zero {g : Gsw} {i : Nat} (h : (gswDevOf g i).present = true) : gswCount g ≠ 0 := fun hc => by
  rw [(gswCount_eq_zero g).1 hc i] at h; cases h

/-- The entries after R99 and R103 emptied the table. -/
theorem gswDevOf_emptyGsw (g : Gsw) (i : Nat) :
    gswDevOf (emptyGsw g) i = { gswDevOf g i with present := false } := by
  by_cases hi : i < Config.idSlots
  · exact gswDevOf_map g (emptyGsw g) _ rfl hi
  · simp only [gswDevOf_of_not_lt _ hi, GswDev.reset]

/-- The entries after a payload was stored (R100, R102). -/
theorem gswDevOf_storePayload {id : Byte} (hid : validId id = true) (p : List Byte) (g : Gsw) (j : Nat) :
    gswDevOf (storePayload id p g) j =
      if j = id.toNat then { present := true, slot := writeSlot (padPayload g.len p) (gswDevOf g id.toNat).slot }
      else gswDevOf g j :=
  gswDevOf_put g _ ((validId_iff id).1 hid) j

/-- The entries after an ID was removed (R101). -/
theorem gswDevOf_removeGsw {id : Byte} (hid : id.toNat < Config.idSlots) (g : Gsw) (j : Nat) :
    gswDevOf (removeGsw id g) j = if j = id.toNat then { gswDevOf g id.toNat with present := false } else gswDevOf g j :=
  gswDevOf_put g _ hid j

@[simp] theorem storePayload_len (id : Byte) (p : List Byte) (g : Gsw) : (storePayload id p g).len = g.len :=
  putGswDev_len _ _ g

@[simp] theorem removeGsw_len (id : Byte) (g : Gsw) : (removeGsw id g).len = g.len := putGswDev_len _ _ g

theorem padPayload_length (len : Byte) (p : List Byte) : (padPayload len p).length = max len.toNat p.length := by
  simp only [padPayload, List.length_append, List.length_replicate]; omega

/-! ### The group-sync-write engine stays sound -/

/-- GSW_INIT and GSW_CLEAR leave a sound engine (R99, R103). -/
theorem gswSound_emptied {g : Gsw} (hg : GswSound g) (start len : Byte) (flat : List Byte) :
    GswSound { emptyGsw g with start := start, len := len, flat := flat } := by
  have habs : ∀ i, (gswDevOf (emptyGsw g) i).present = false := fun i => by rw [gswDevOf_emptyGsw]
  refine (gswSound_iff _).2 ⟨⟨fun _ => (gswCount_eq_zero _).2 habs, fun _ => rfl⟩, nofun, fun i => ⟨?_, ?_⟩⟩
  · intro hp
    exact absurd (hp.symm.trans (habs i)) (by simp)
  · have := hg.slots i
    rwa [← show (gswDevOf (emptyGsw g) i).slot = (gswDevOf g i).slot by rw [gswDevOf_emptyGsw]] at this

/-- GSW_ADD and GSW_CHANGE leave a sound engine (R100, R102). -/
theorem gswSound_storePayload {g : Gsw} (hg : GswSound g) {id : Byte} (hid : validId id = true) {p : List Byte}
    (hp : p.length ≤ g.len.toNat) : GswSound (storePayload id p g) := by
  have hdev := gswDevOf_storePayload hid p g
  have hcount : gswCount (storePayload id p g) ≠ 0 := gswCount_ne_zero (i := id.toNat) (by rw [hdev, if_pos rfl])
  refine (gswSound_iff _).2 ⟨⟨nofun, fun h => absurd h hcount⟩, nofun, fun j => ?_⟩
  rw [hdev, storePayload_len]
  split
  · have hlen := g.len.isLt
    have hslot := hg.slots id.toNat
    simp only [GswDev.Ok, writeSlot_length, padPayload_length, Config.slotBytes] at hslot ⊢
    omega
  · exact hg.ok j

/-- GSW_REMOVE leaves a sound engine (R101). -/
theorem gswSound_removeGsw {g : Gsw} (hg : GswSound g) {id : Byte} (hid : id.toNat < Config.idSlots) :
    GswSound (removeGsw id g) := by
  refine (gswSound_iff _).2 ⟨?_, nofun, fun j => ?_⟩
  · show (if gswCount (removeGsw id g) = 0 then GswPhase.empty else .populated) = .empty ↔ gswCount (removeGsw id g) = 0
    split <;> simp [*]
  · rw [gswDevOf_removeGsw hid, removeGsw_len]
    split
    · exact ⟨nofun, hg.slots id.toNat⟩
    · exact hg.ok j

/-- A rebuild changes FLAT and DIRTY alone (R104). -/
theorem rebuildGsw_eq (g : Gsw) : rebuildGsw g = { g with flat := (rebuildGsw g).flat, dirty := (rebuildGsw g).dirty } := by
  unfold rebuildGsw; split <;> rfl

@[simp] theorem rebuildGsw_count (g : Gsw) : gswCount (rebuildGsw g) = gswCount g := by rw [rebuildGsw_eq]; rfl

/-- A rebuild leaves a sound engine (R36, R104). -/
theorem gswSound_rebuildGsw {g : Gsw} (hg : GswSound g) : GswSound (rebuildGsw g) := by
  unfold rebuildGsw; split
  · exact { hg with flat := fun _ => rfl }
  · exact hg

/-- PHASE Transmitted leaves a sound engine where an ID is present (R105). -/
theorem gswSound_transmitted {g : Gsw} (hg : GswSound g) (hc : gswCount g ≠ 0) :
    GswSound { g with phase := .transmitted } :=
  { hg with phase := ⟨nofun, fun h => absurd h hc⟩ }

/-! ### The entries of the GSR table -/

/-- What `GsrSound` asks of one entry (R34, R110). -/
def GsrDev.Ok (len : Byte) (d : GsrDev) : Prop :=
  (d.present = true → len.toNat ≤ d.slot.length) ∧ d.slot.length ≤ Config.slotBytes ∧
    (d.valid = true → d.present = true)

theorem GsrDev.reset_ok (len : Byte) : GsrDev.reset.Ok len := ⟨nofun, Nat.zero_le _, nofun⟩

theorem gsrSound_iff (g : Gsr) :
    GsrSound g ↔ (g.phase = .empty ↔ gsrCount g = 0) ∧ (g.dirty = false → g.flat = gsrFlatten g) ∧
      ∀ i, (gsrDevOf g i).Ok g.len :=
  ⟨fun h => ⟨h.phase, h.flat, fun i => ⟨h.written i, h.slots i, h.valid i⟩⟩,
   fun ⟨hp, hf, ho⟩ => ⟨hp, hf, fun i => (ho i).1, fun i => (ho i).2.1, fun i => (ho i).2.2⟩⟩

theorem GsrSound.ok {g : Gsr} (hg : GsrSound g) (i : Nat) : (gsrDevOf g i).Ok g.len := ((gsrSound_iff g).1 hg).2.2 i

theorem gsrCount_ne_zero {g : Gsr} {i : Nat} (h : (gsrDevOf g i).present = true) : gsrCount g ≠ 0 := fun hc => by
  rw [(gsrCount_eq_zero g).1 hc i] at h; cases h

/-- A property of entries, once every entry of the table was mapped. -/
theorem gsrDevOf_map_property {g h : Gsr} {f : Nat → GsrDev → GsrDev} (e : h.devs = mapEntries f g.devs)
    {P : GsrDev → GsrDev → Prop} (hf : ∀ i, P (gsrDevOf g i) (f i (gsrDevOf g i))) (hr : P GsrDev.reset GsrDev.reset)
    (i : Nat) : P (gsrDevOf g i) (gsrDevOf h i) := by
  by_cases hi : i < Config.idSlots
  · rw [gsrDevOf_map g h f e hi]; exact hf i
  · rwa [gsrDevOf_of_not_lt g hi, gsrDevOf_of_not_lt h hi]

/-- The set stays when every entry keeps its present bit. -/
theorem gsrIds_map {g h : Gsr} {f : Nat → GsrDev → GsrDev} (e : h.devs = mapEntries f g.devs)
    (hf : ∀ i d, (f i d).present = d.present) : gsrIds h = gsrIds g :=
  gsrIds_congr (gsrDevOf_map_property e (P := fun d d' => d'.present = d.present) (fun i => hf i _) rfl)

/-- The entries after an ID was added (R109). -/
theorem gsrDevOf_addGsr {id : Byte} (hid : validId id = true) (g : Gsr) (j : Nat) :
    gsrDevOf (addGsr id g) j =
      if j = id.toNat then
        { present := true, slot := writeSlot (List.replicate g.len.toNat 0) (gsrDevOf g id.toNat).slot,
          valid := false, idres := .notAvailable, iderr := 0 }
      else gsrDevOf g j :=
  gsrDevOf_put g _ ((validId_iff id).1 hid) j

/-- The entries after an ID was removed (R110). -/
theorem gsrDevOf_removeGsr {id : Byte} (hid : id.toNat < Config.idSlots) (g : Gsr) (j : Nat) :
    gsrDevOf (removeGsr id g) j =
      if j = id.toNat then { gsrDevOf g id.toNat with present := false, valid := false } else gsrDevOf g j :=
  gsrDevOf_put g _ hid j

@[simp] theorem addGsr_len (id : Byte) (g : Gsr) : (addGsr id g).len = g.len := putGsrDev_len _ _ g

@[simp] theorem removeGsr_len (id : Byte) (g : Gsr) : (removeGsr id g).len = g.len := putGsrDev_len _ _ g

/-! ### The group-sync-read engine stays sound -/

/-- An engine whose table was emptied is sound (R108, R111). -/
theorem gsrSound_emptied {g h : Gsr} (hg : GsrSound g) {f : Nat → GsrDev → GsrDev} (e : h.devs = mapEntries f g.devs)
    (hf : ∀ i d, (f i d).present = false ∧ (f i d).valid = false ∧ (f i d).slot = d.slot) (hp : h.phase = .empty)
    (hd : h.dirty = true) : GsrSound h := by
  have habs : ∀ i, (gsrDevOf h i).present = false :=
    gsrDevOf_map_property e (P := fun _ d => d.present = false) (fun i => (hf i _).1) rfl
  refine (gsrSound_iff h).2 ⟨⟨fun _ => (gsrCount_eq_zero h).2 habs, fun _ => hp⟩, fun hd' => by simp [hd] at hd',
    fun i => ?_⟩
  refine gsrDevOf_map_property e (P := fun d d' => d.Ok g.len → d'.Ok h.len) (fun i ho => ?_)
    (fun _ => GsrDev.reset_ok _) i (hg.ok i)
  obtain ⟨hpres, hval, hslot⟩ := hf i (gsrDevOf g i)
  obtain ⟨-, hlen, -⟩ := ho
  exact ⟨fun h => by simp [hpres] at h, by rwa [hslot], fun h => by simp [hval] at h⟩

/-- GSR_ADD leaves a sound engine (R109). -/
theorem gsrSound_addGsr {g : Gsr} (hg : GsrSound g) {id : Byte} (hid : validId id = true) : GsrSound (addGsr id g) := by
  have hdev := gsrDevOf_addGsr hid g
  have hcount : gsrCount (addGsr id g) ≠ 0 := gsrCount_ne_zero (i := id.toNat) (by rw [hdev, if_pos rfl])
  refine (gsrSound_iff _).2 ⟨⟨nofun, fun h => absurd h hcount⟩, nofun, fun j => ?_⟩
  rw [hdev, addGsr_len]
  split
  · have hlen := g.len.isLt
    have hslot := hg.slots id.toNat
    refine ⟨fun _ => ?_, ?_, nofun⟩
    · simp
    · simp only [writeSlot_length, List.length_replicate, Config.slotBytes] at hslot ⊢
      omega
  · exact hg.ok j

/-- GSR_REMOVE leaves a sound engine (R110). -/
theorem gsrSound_removeGsr {g : Gsr} (hg : GsrSound g) {id : Byte} (hid : id.toNat < Config.idSlots) :
    GsrSound (removeGsr id g) := by
  refine (gsrSound_iff _).2 ⟨?_, nofun, fun j => ?_⟩
  · show (if gsrCount (removeGsr id g) = 0 then GsrPhase.empty else .populated) = .empty ↔ gsrCount (removeGsr id g) = 0
    split <;> simp [*]
  · rw [gsrDevOf_removeGsr hid, removeGsr_len]
    split
    · exact ⟨nofun, hg.slots id.toNat, nofun⟩
    · exact hg.ok j

/-- A rebuild changes FLAT and DIRTY alone (R112). -/
theorem rebuildGsr_eq (g : Gsr) : rebuildGsr g = { g with flat := (rebuildGsr g).flat, dirty := (rebuildGsr g).dirty } := by
  unfold rebuildGsr; split <;> rfl

@[simp] theorem rebuildGsr_phase (g : Gsr) : (rebuildGsr g).phase = g.phase := by rw [rebuildGsr_eq]

@[simp] theorem rebuildGsr_count (g : Gsr) : gsrCount (rebuildGsr g) = gsrCount g := by rw [rebuildGsr_eq]; rfl

/-- A rebuild leaves a sound engine (R36, R112). -/
theorem gsrSound_rebuildGsr {g : Gsr} (hg : GsrSound g) : GsrSound (rebuildGsr g) := by
  unfold rebuildGsr; split
  · exact { hg with flat := fun _ => rfl }
  · exact hg

/-- A PHASE other than Empty leaves a sound engine where an ID is present (R35). -/
theorem gsrSound_phase {g : Gsr} (hg : GsrSound g) (hc : gsrCount g ≠ 0) {ph : GsrPhase} (hp : ph ≠ .empty) :
    GsrSound { g with phase := ph } :=
  { hg with phase := ⟨fun h => absurd h hp, fun h => absurd h hc⟩ }

/-- An engine whose entries were mapped with the set kept is sound. -/
theorem gsrSound_mapped {g : Gsr} (hg : GsrSound g) (hc : gsrCount g ≠ 0) {f : Nat → GsrDev → GsrDev}
    (hf : ∀ i d, (f i d).present = d.present) (hok : ∀ i d, d.Ok g.len → (f i d).Ok g.len) {ph : GsrPhase}
    (hp : ph ≠ .empty) (lastOk : Bool) :
    GsrSound { g with devs := mapEntries f g.devs, phase := ph, lastOk := lastOk } := by
  have hids := gsrIds_map (g := g) (h := { g with devs := mapEntries f g.devs, phase := ph, lastOk := lastOk }) rfl hf
  refine (gsrSound_iff _).2 ⟨⟨fun h => absurd h hp, fun h => absurd ?_ hc⟩, fun hd => ?_, fun i => ?_⟩
  · rwa [gsrCount, hids] at h
  · rw [gsrFlatten, hids]; exact hg.flat hd
  · exact gsrDevOf_map_property rfl (P := fun d d' => d.Ok g.len → d'.Ok g.len) (fun i => hok i _)
      (fun _ => GsrDev.reset_ok _) i (hg.ok i)

/-- GSR_TXREQ's marks keep the set (R113). -/
theorem gsrCount_markRequested (g : Gsr) : gsrCount (markRequested g) = gsrCount g :=
  congrArg List.length (gsrIds_map rfl (fun _ d => by split <;> rfl))

/-- GSR_TXREQ's marks leave a sound engine (R113). -/
theorem gsrSound_markRequested {g : Gsr} (hg : GsrSound g) (hc : gsrCount g ≠ 0) : GsrSound (markRequested g) := by
  refine gsrSound_mapped hg hc (fun _ d => ?_) (fun _ d hd => ?_) (by simp) g.lastOk
  · split <;> rfl
  · obtain ⟨hwritten, hslot, hvalid⟩ := hd
    split
    · exact ⟨hwritten, hslot, nofun⟩
    · exact ⟨hwritten, hslot, hvalid⟩

/-- What the demultiplexer writes for one ID is sound (R117). -/
theorem demuxEntry_ok {b : List Byte} {len : Byte} {cause : EndCause} {i : Nat} {d : GsrDev} (hd : d.Ok len) :
    (demuxEntry b len cause i d).Ok len := by
  obtain ⟨hwritten, hslot, hvalid⟩ := hd
  rcases demuxEntry_cases b len cause i d with ⟨_, h⟩ | ⟨hp, p, _, hlen, h⟩ | ⟨hp, c, _, _, h⟩ <;> rw [h]
  · exact ⟨hwritten, hslot, hvalid⟩
  · have := len.isLt
    refine ⟨fun _ => ?_, ?_, fun _ => hp⟩
    · simp [hlen]
    · simp only [writeSlot_length, hlen, Config.slotBytes] at hslot ⊢
      omega
  · exact ⟨hwritten, hslot, nofun⟩

end Sys2Proof.Machine
end

section
/-! SUPPORT. The clauses of `Sound` on stored data, with one rule for each shared operation, and the rules that give a whole sound
state back: after the end of a command, after a frame was sent, and at the start and the end of a receive. -/

namespace Sys2Proof.Machine

section
variable {s : State}

/-! ### The stored data -/

/-- The clauses of `Sound` that speak of stored data alone: not of the guard, the active command, the timer or STATUS.RESULT. -/
structure DataSound (s : State) : Prop where
  memory : Memory.wf s.mem = true
  buffers : ∀ c ∈ s.mem, inBuffer c.1 = true
  gsw : GswSound s.gsw
  gsr : GsrSound s.gsr
  txLen : s.txLen = 0 ∨ (6 ≤ s.txLen.toNat ∧ s.txLen.toNat ≤ Config.maxFrame)
  pktCount : s.pktInfo.count.toNat ≤ Config.maxParams
  rxCount : s.rxCount.toNat ≤ Config.rxCap
  shortWrites : ∀ e ∈ s.transport.log, ∀ c, e.2 = .short c → c < e.1.length

theorem Sound.data (hs : Sound s) : DataSound s := { hs with }

/-- A store into PARAM_BUF, TX_BUF or PKT_BUF (R26 to R28). -/
theorem DataSound.storeBytes_low (hd : DataSound s) {off : Nat} {bs : List Byte} (h1 : 0x100 ≤ off)
    (h2 : off + bs.length ≤ 0x400) : DataSound (storeBytes off bs s) :=
  have ⟨hm, hb⟩ := storeBytes_keeps hd.memory hd.buffers fun _ _ _ => inBuffer_low (by omega) (by omega)
  { hd with memory := hm, buffers := hb }

/-- A store into RX_BUF (R29). -/
theorem DataSound.storeBytes_rx (hd : DataSound s) {k : Nat} {bs : List Byte} (h : k + bs.length ≤ Config.rxCap) :
    DataSound (storeBytes (rxBase + k) bs s) :=
  have ⟨hm, hb⟩ := storeBytes_keeps hd.memory hd.buffers fun a h1 h2 => by
    unfold rxBase at h1 h2
    exact inBuffer_rx (a := a) (by omega) (by omega)
  { hd with memory := hm, buffers := hb }

/-- A built frame has from 6 to 250 bytes (R57, R60). -/
theorem buildFrame_bounds {id instr : Byte} {p f : List Byte} (h : buildFrame id instr p = some f) :
    6 ≤ f.length ∧ f.length ≤ Config.maxFrame := by
  have hp := (buildFrame_eq_some h).1
  simp only [buildFrame_length h, Config.maxParams, Config.maxFrame] at hp ⊢
  omega

theorem DataSound.loadFrame (hd : DataSound s) {f : List Byte} (hf : 6 ≤ f.length ∧ f.length ≤ Config.maxFrame) :
    DataSound (loadFrame f s) := by
  simp only [Config.maxFrame] at hf
  have hst : DataSound (storeBytes 0x200 f s) := hd.storeBytes_low (by decide) (by omega)
  have htx : (BitVec.ofNat 8 f.length).toNat = f.length := by rw [BitVec.toNat_ofNat]; omega
  exact { hst with txLen := .inr (by rwa [loadFrame_txLen, htx]) }

theorem DataSound.clearFrame (hd : DataSound s) : DataSound (clearFrame s) := { hd with txLen := .inl rfl }

theorem DataSound.storeParams (hd : DataSound s) (bs : List Byte) : DataSound (storeParams bs s) :=
  hd.storeBytes_low (off := 0x100) (by decide) (by
    simp only [List.length_take, Config.paramBufSize]
    omega)

theorem DataSound.putPacket (hd : DataSound s) {p : Packet} (hp : p.params.length ≤ Config.maxParams) :
    DataSound (putPacket p s) := by
  simp only [Config.maxParams] at hp
  have hst : DataSound (storeBytes 0x300 p.params s) := hd.storeBytes_low (by decide) (by omega)
  have hcount : (BitVec.ofNat 8 p.params.length).toNat = p.params.length := by rw [BitVec.toNat_ofNat]; omega
  exact { hst with pktCount := by rwa [putPacket_pktInfo, hcount] }

/-- RX_COUNT below RX_CAP does not wrap when a byte is appended (R8). -/
theorem appendRx_rxCount_toNat (v : Byte) (hc : s.rxCount.toNat < Config.rxCap) :
    (appendRx v s).rxCount.toNat = s.rxCount.toNat + 1 := by
  have hcap := rxCap_le
  rw [appendRx_rxCount]
  bv_omega

theorem DataSound.appendRx (hd : DataSound s) (v : Byte) (hc : s.rxCount.toNat < Config.rxCap) :
    DataSound (appendRx v s) := by
  have hst : DataSound (storeBytes (rxBase + s.rxCount.toNat) [v] s) := hd.storeBytes_rx hc
  exact { hst with rxCount := by rwa [appendRx_rxCount_toNat v hc] }

theorem compactRx_rxCount_toNat (c : Nat) : (compactRx c s).rxCount.toNat = s.rxCount.toNat - c := by
  have := s.rxCount.isLt
  rw [compactRx_rxCount, BitVec.toNat_ofNat]
  omega

theorem DataSound.compactRx (hd : DataSound s) (c : Nat) : DataSound (compactRx c s) := by
  have hcount := hd.rxCount
  have hst : DataSound (storeBytes rxBase ((rxBytes s).drop c) s) :=
    hd.storeBytes_rx (k := 0) (by
      simp only [rxBytes, List.length_drop, bytesOf_length]
      omega)
  exact { hst with rxCount := by rw [compactRx_rxCount_toNat]; omega }

theorem DataSound.sendFrame (hd : DataSound s) (o : Owner) (f : List Byte) : DataSound (sendFrame o f s) :=
  { hd with shortWrites := writeFrame_shortWrites (s := flushInput (acquire o s)) hd.shortWrites }

theorem DataSound.setGsw (hd : DataSound s) {g : Gsw} (hg : GswSound g) : DataSound { s with gsw := g } := { hd with gsw := hg }

theorem DataSound.setGsr (hd : DataSound s) {g : Gsr} (hg : GsrSound g) : DataSound { s with gsr := g } := { hd with gsr := hg }

/-! ### The guard and the active command -/

/-- The engine holds no guard: no request is out and no GSR_RX is active (R35). -/
def Gsr.Unlocked (g : Gsr) : Prop := g.phase ≠ .txSent ∧ g.phase ≠ .rxPending

theorem Sound.unlocked_iff (hs : Sound s) : s.gsr.Unlocked ↔ s.owner ≠ .gsr := by
  rw [Gsr.Unlocked, ← not_or, hs.gsrOwner]

/-- With no receive active, PHASE TxSent is the only lock of the engine (R35, R107). -/
theorem Sound.unlocked_of_idle (hs : Sound s) (ha : s.active = none) (hp : s.gsr.phase ≠ .txSent) : s.gsr.Unlocked :=
  ⟨hp, fun h => by obtain ⟨n, hn⟩ := hs.gsrPending.1 h; simp [ha] at hn⟩

theorem Sound.owner_of_free (hs : Sound s) (hb : s.busy = false) : s.owner = .nobody := hs.guard.2 hb

theorem Sound.unlocked_of_free (hs : Sound s) (hb : s.busy = false) : s.gsr.Unlocked :=
  hs.unlocked_iff.2 (by simp [hs.owner_of_free hb])

theorem Sound.timer_of_idle (hs : Sound s) (ha : s.active = none) : s.timer = false := by rw [hs.timer, ha]; rfl

/-- The end of a command with no receive active keeps a state sound (R11). -/
theorem Sound.finish (hs : Sound s) (ha : s.active = none) (c : ResultCode) : Sound (finish c s) :=
  { hs with
    gsrPending := by simpa [ha] using hs.gsrPending
    codecOwner := nofun
    timer := hs.timer_of_idle ha
    waiting := nofun
    codecKept := nofun
    gsrKept := nofun }

theorem Sound.finishWith (hs : Sound s) (ha : s.active = none) (r : Word) (c : ResultCode) : Sound (finishWith r c s) :=
  Sound.finish (s := { s with result := r }) { hs with } ha c

/-- A sound engine that holds no guard takes the place of one that holds none. -/
theorem Sound.setGsr (hs : Sound s) (hu : s.gsr.Unlocked) {g : Gsr} (hg : GsrSound g) (hu' : g.Unlocked) :
    Sound { s with gsr := g } := by
  obtain ⟨hsent, hpending⟩ := hu'
  have howner := hs.unlocked_iff.1 hu
  have hactive : ¬ ∃ n, s.active = some (.gsrRx n) := fun h => hu.2 (hs.gsrPending.2 h)
  exact { hs with
    gsr := hg
    gsrOwner := by simp [hsent, hpending, howner]
    gsrPending := by simp [hpending, not_exists.1 hactive]
    gsrFits := fun h => absurd h howner
    gsrKept := fun n h => absurd ⟨n, h⟩ hactive }

/-- A command that ends with the guard freed and no receive running leaves a sound state (R85, R105, R113, R87, R117). -/
theorem DataSound.finish_release (hd : DataSound s) (ht : s.timer = false) (hu : s.gsr.Unlocked) (c : ResultCode) :
    Sound (Machine.finish c (release s)) :=
  { hd with
    guard := ⟨fun _ => rfl, fun _ => rfl⟩
    gsrOwner := ⟨fun h => absurd h (not_or.2 hu), nofun⟩
    gsrPending := ⟨fun h => absurd h hu.2, nofun⟩
    codecOwner := nofun
    timer := ht
    waiting := nofun
    codecKept := nofun
    gsrFits := nofun
    gsrKept := nofun }

/-- The end of a receive leaves a sound state (R87, R117). -/
theorem DataSound.endReceive (hd : DataSound s) (hu : s.gsr.Unlocked) (cause : EndCause) (c : ResultCode) :
    Sound (endReceive cause c s) :=
  DataSound.finish_release (s := { s with rxEnd := cause, timer := false }) { hd with } rfl hu c

/-- A frame sent under the guard of CODEC keeps a state sound where the guard was free and no receive was active (R85). -/
theorem Sound.sendFrame_codec (hs : Sound s) (hb : s.busy = false) (f : List Byte) : Sound (sendFrame .codec f s) :=
  have ⟨hsent, hpending⟩ := hs.unlocked_of_free hb
  { hs.data.sendFrame .codec f, hs with
    guard := by simp
    gsrOwner := by simp [hsent, hpending]
    codecOwner := fun _ _ _ _ => rfl
    gsrFits := nofun }

/-! ### The start of a receive -/

/-- CODEC_RECEIVE's launch under the guard of CODEC leaves a sound state (R86). -/
theorem DataSound.startReceive_codec (hd : DataSound s) (hb : s.busy = true) (ho : s.owner = .codec) (hu : s.gsr.Unlocked)
    (x : Byte) (any : Bool) (nexp : Byte) : Sound (startReceive (.codecReceive x any nexp) s) := by
  obtain ⟨hsent, hpending⟩ := hu
  exact { hd with
    rxCount := Nat.zero_le _
    guard := by simp [hb, ho]
    gsrOwner := by simp [hsent, hpending, ho]
    gsrPending := by simp [hpending]
    codecOwner := fun _ _ _ _ => ho
    timer := rfl
    waiting := fun _ => rfl
    codecKept := fun _ _ _ _ => Nat.zero_lt_succ _
    gsrFits := fun h => by simp [ho] at h
    gsrKept := fun _ h => by simp at h }

theorem gsrExpected_pos {g : Gsr} (hc : gsrCount g ≠ 0) : 0 < gsrExpected g :=
  Nat.mul_pos (Nat.pos_of_ne_zero hc) (Nat.succ_pos _)

/-- GSR_RX's launch leaves a sound state where a request is out (R114). -/
theorem Sound.startReceive_gsr (hs : Sound s) (hp : s.gsr.phase = .txSent) :
    Sound (startReceive (.gsrRx (gsrExpected s.gsr)) { s with gsr := { s.gsr with phase := .rxPending } }) := by
  have howner : s.owner = .gsr := hs.gsrOwner.1 (.inl hp)
  have hcount : gsrCount s.gsr ≠ 0 := fun h => by simpa [hp] using hs.gsr.phase.2 h
  exact { hs with
    gsr := gsrSound_phase hs.gsr hcount nofun
    rxCount := Nat.zero_le _
    gsrOwner := by simp [howner]
    gsrPending := by simp
    codecOwner := fun _ _ _ h => by simp at h
    timer := rfl
    waiting := fun _ => rfl
    codecKept := fun _ _ _ h => by simp at h
    gsrKept := fun n h => by
      obtain rfl : gsrExpected s.gsr = n := by simpa using h
      exact ⟨rfl, gsrExpected_pos hcount⟩ }

/-! ### The demultiplexer -/

theorem DataSound.demux (hd : DataSound s) (hc : gsrCount s.gsr ≠ 0) (cause : EndCause) : Sound (demux cause s) := by
  refine DataSound.endReceive (hd.setGsr ?_) ⟨?_, ?_⟩ cause _
  · exact gsrSound_mapped hd.gsr hc (demuxEntry_present _ _ _) (fun _ _ h => demuxEntry_ok h) (by split <;> simp) _
  · dsimp only; split <;> simp
  · dsimp only; split <;> simp

end

end Sys2Proof.Machine
end

section
/-! SUPPORT. All that the three transmits can do, said once, and the soundness of the state after each instruction. -/

namespace Sys2Proof.Machine

/-! ### All that the three transmits can do -/

/-- CODEC_TRANSMIT after its checks (R85): a write that is not Full, one whose reply keeps the guard, and one without a reply. -/
theorem transmitFrame_cases (expect : Bool) (s : State) :
    transmitFrame expect s = finish .txFail (release (sendFrame .codec (txFrame s) s)) ∨
    transmitFrame expect s = finish .success (sendFrame .codec (txFrame s) s) ∨
    transmitFrame expect s = finish .success (release (sendFrame .codec (txFrame s) s)) := by
  unfold transmitFrame
  split
  · exact .inl rfl
  · split
    · exact .inr (.inl rfl)
    · exact .inr (.inr rfl)

/-- GSW_TRANSMIT after its checks (R105): no frame, a write that is not Full, and a Full one. -/
theorem transmitGsw_cases (s : State) :
    transmitGsw s = finish .txError (clearFrame { s with gsw := rebuildGsw s.gsw }) ∨
    ∃ f, gswFrame (rebuildGsw s.gsw) = some f ∧
      (transmitGsw s = finish .txFail (release (sendFrame .codec f (loadFrame f { s with gsw := rebuildGsw s.gsw }))) ∨
       transmitGsw s = finish .success (release (sendFrame .codec f
         (loadFrame f { s with gsw := { rebuildGsw s.gsw with phase := .transmitted } })))) := by
  unfold transmitGsw
  dsimp only
  split
  · exact .inl rfl
  · rename_i f hf
    refine .inr ⟨f, hf, ?_⟩
    split
    · exact .inl rfl
    · exact .inr rfl

/-- GSR_TXREQ after its checks (R113): no frame or no room for the replies, a write that is not Full, and a Full one. -/
theorem requestGsr_cases (s : State) :
    requestGsr s = finish .txError (clearFrame { s with gsr := rebuildGsr s.gsr }) ∨
    ∃ f, gsrFrame (rebuildGsr s.gsr) = some f ∧ gsrExpected (rebuildGsr s.gsr) ≤ Config.rxCap ∧
      (requestGsr s = finish .txFail (release (sendFrame .gsr f (loadFrame f { s with gsr := rebuildGsr s.gsr }))) ∨
       requestGsr s = finish .success (sendFrame .gsr f
         (loadFrame f { s with gsr := markRequested (rebuildGsr s.gsr) }))) := by
  unfold requestGsr
  dsimp only
  split
  · exact .inl rfl
  · rename_i f hf
    split
    · exact .inl rfl
    · rename_i hfits
      refine .inr ⟨f, hf, (fitsRxCap_iff _).1 (by simpa using hfits), ?_⟩
      split
      · exact .inl rfl
      · exact .inr rfl

/-! ### Each command keeps a state sound -/

/-- GSR_REMOVE leaves the engine unlocked (R110). -/
theorem removeGsr_unlocked (id : Byte) (g : Gsr) : (removeGsr id g).Unlocked := by
  simp only [Gsr.Unlocked, removeGsr]
  split <;> simp

section
variable {s : State} (hs : Sound s) (ha : s.active = none)
include hs ha

/-- CODEC_ENCODE, and the framing of every wire instruction (R72, R84). -/
theorem Sound.encodeFrame (id instr : Byte) (p : List Byte) : Sound (encodeFrame id instr p s) := by
  rcases encodeFrame_cases id instr p s with ⟨-, h⟩ | ⟨-, f, hf, -, h⟩ <;> rw [h]
  · exact Sound.finish (s := clearFrame s) { hs.data.clearFrame, hs with } ha _
  · exact Sound.finish (s := loadFrame f s) { hs.data.loadFrame (buildFrame_bounds hf), hs with } ha _

theorem frameInstr_sound (id instr : Byte) (p : List Byte) : EveryNext Sound (frameInstr id instr p s) :=
  everyNext_next.2 (Sound.encodeFrame (s := storeParams p s) { hs.data.storeParams p, hs with } ha id instr p)

theorem execCodecTransmit_sound (expect : Bool) : EveryNext Sound (execCodecTransmit expect s) := by
  refine everyNext_next.2 ?_
  split
  · exact hs.finish ha _
  · split
    · exact hs.finish ha _
    · rename_i hb _
      have hb : s.busy = false := by simpa using hb
      have hsent := hs.sendFrame_codec hb (txFrame s)
      have hfree := (hs.data.sendFrame .codec (txFrame s)).finish_release (hs.timer_of_idle ha) (hs.unlocked_of_free hb)
      rcases transmitFrame_cases expect s with h | h | h <;> rw [h]
      · exact hfree _
      · exact hsent.finish ha _
      · exact hfree _

theorem execCodecReceive_sound (id : Byte) (any : Bool) (nexp : Byte) :
    EveryNext Sound (execCodecReceive id any nexp s) := by
  refine everyNext_next.2 ?_
  split
  · exact hs.finish ha _
  · rename_i ho
    have hu := hs.unlocked_iff.2 ho
    dsimp only
    split
    · rename_i hb
      have howner : s.owner = .codec := by
        cases h : s.owner with
        | nobody => simp [hs.guard.1 h] at hb
        | codec => rfl
        | gsr => exact absurd h ho
      exact DataSound.startReceive_codec (s := { s with pktValid := false }) { hs.data with } hb howner hu id any nexp
    · exact DataSound.startReceive_codec (s := { acquire .codec s with pktValid := false }) { hs.data with } rfl rfl hu
        id any nexp

theorem execCodecScan_sound (id : Byte) (any : Bool) (n : Byte) : EveryNext Sound (execCodecScan id any n s) := by
  refine everyNext_next.2 ?_
  split
  · rename_i h p hscan
    exact Sound.finishWith (s := putPacket p s) { hs.data.putPacket (scan_packet_length hscan), hs with } ha _ _
  · exact Sound.finishWith (s := { s with pktValid := false }) { hs with } ha _ _

/-! The group-sync-write engine (R99 to R105). -/

/-- A command that ends after it gave the engine a sound table. -/
theorem Sound.finish_setGsw {g : Gsw} (hg : GswSound g) (c : ResultCode) : Sound (Machine.finish c { s with gsw := g }) :=
  Sound.finish (s := { s with gsw := g }) { hs with gsw := hg } ha c

theorem execGswInit_sound (start len : Byte) : EveryNext Sound (execGswInit start len s) :=
  everyNext_next.2 (hs.finish_setGsw ha (gswSound_emptied hs.gsw start len []) _)

theorem execGswAdd_sound (id n : Byte) : EveryNext Sound (execGswAdd id n s) := by
  refine everyNext_next.2 ?_
  split_ifs with hid hpresent hlen
  · exact hs.finish ha _
  · exact hs.finish ha _
  · exact hs.finish ha _
  · refine hs.finish_setGsw ha (gswSound_storePayload hs.gsw (by simpa using hid) ?_) _
    rw [paramBytes, bytesOf_length]
    omega

theorem execGswRemove_sound (id : Byte) : EveryNext Sound (execGswRemove id s) := by
  refine everyNext_next.2 ?_
  split_ifs with hpresent
  · exact hs.finish ha _
  · have hp := (gswPresent_iff s.gsw id).1 (by simpa using hpresent)
    exact hs.finish_setGsw ha (gswSound_removeGsw hs.gsw (lt_of_gsw_present hp)) _

theorem execGswChange_sound (id n : Byte) : EveryNext Sound (execGswChange id n s) := by
  refine everyNext_next.2 ?_
  split_ifs with hpresent hlen
  · exact hs.finish ha _
  · exact hs.finish ha _
  · have hp := (gswPresent_iff s.gsw id).1 (by simpa using hpresent)
    refine hs.finish_setGsw ha (gswSound_storePayload hs.gsw ((validId_iff id).2 (lt_of_gsw_present hp)) ?_) _
    rw [paramBytes, bytesOf_length]
    omega

theorem execGswClear_sound : EveryNext Sound (execGswClear s) :=
  everyNext_next.2 (hs.finish_setGsw ha (gswSound_emptied hs.gsw s.gsw.start s.gsw.len s.gsw.flat) _)

theorem execGswTransmit_sound : EveryNext Sound (execGswTransmit s) := by
  refine everyNext_next.2 ?_
  split_ifs with hcount hb
  · exact hs.finish ha _
  · exact hs.finish ha _
  · have hrebuilt := gswSound_rebuildGsw hs.gsw
    have hfree := hs.unlocked_of_free (by simpa using hb)
    have hsent : ∀ g f c, GswSound g → gswFrame (rebuildGsw s.gsw) = some f →
        Sound (Machine.finish c (release (sendFrame .codec f (loadFrame f { s with gsw := g })))) := fun g f c hg hf =>
      (((hs.data.setGsw hg).loadFrame (buildFrame_bounds hf)).sendFrame .codec f).finish_release (hs.timer_of_idle ha) hfree c
    rcases transmitGsw_cases s with h | ⟨f, hf, h | h⟩ <;> rw [h]
    · exact Sound.finish (s := clearFrame { s with gsw := rebuildGsw s.gsw })
        { (hs.data.setGsw hrebuilt).clearFrame, hs with } ha _
    · exact hsent _ f _ hrebuilt hf
    · exact hsent _ f _ (gswSound_transmitted hrebuilt (by rwa [rebuildGsw_count])) hf

/-! The group-sync-read engine (R108 to R114). -/

/-- A command that ends after it gave the unlocked engine a sound set. -/
theorem Sound.finish_setGsr (hp : s.gsr.phase ≠ .txSent) {g : Gsr} (hg : GsrSound g) (hu : g.Unlocked) (c : ResultCode) :
    Sound (Machine.finish c { s with gsr := g }) :=
  (hs.setGsr (hs.unlocked_of_idle ha hp) hg hu).finish ha c

theorem execGsrInit_sound (start len : Byte) : EveryNext Sound (execGsrInit start len s) := by
  refine everyNext_next.2 ?_
  split_ifs with hp
  · exact hs.finish ha _
  · refine hs.finish_setGsr ha hp (gsrSound_emptied hs.gsr rfl ?_ rfl rfl) ⟨?_, ?_⟩ _
    · exact fun _ _ => ⟨rfl, rfl, rfl⟩
    · simp
    · simp

theorem execGsrAdd_sound (id : Byte) : EveryNext Sound (execGsrAdd id s) := by
  refine everyNext_next.2 ?_
  split_ifs with hp hid hpresent
  · exact hs.finish ha _
  · exact hs.finish ha _
  · exact hs.finish ha _
  · exact hs.finish_setGsr ha hp (gsrSound_addGsr hs.gsr (by simpa using hid)) ⟨nofun, nofun⟩ _

theorem execGsrRemove_sound (id : Byte) : EveryNext Sound (execGsrRemove id s) := by
  refine everyNext_next.2 ?_
  split_ifs with hp hpresent
  · exact hs.finish ha _
  · exact hs.finish ha _
  · have hpr := (gsrPresent_iff s.gsr id).1 (by simpa using hpresent)
    exact hs.finish_setGsr ha hp (gsrSound_removeGsr hs.gsr (lt_of_gsr_present hpr)) (removeGsr_unlocked id s.gsr) _

theorem execGsrClear_sound : EveryNext Sound (execGsrClear s) := by
  refine everyNext_next.2 ?_
  split_ifs with hp
  · exact hs.finish ha _
  · refine hs.finish_setGsr ha hp (gsrSound_emptied hs.gsr rfl ?_ rfl rfl) ⟨?_, ?_⟩ _
    · exact fun _ _ => ⟨rfl, rfl, rfl⟩
    · simp
    · simp

/-- A request that went out locks the engine and leaves a sound state (R113). -/
theorem Sound.request_sent {g : Gsr} (hg : GsrSound g) (hc : gsrCount g ≠ 0) (hfits : gsrExpected g ≤ Config.rxCap)
    {f : List Byte} (hf : 6 ≤ f.length ∧ f.length ≤ Config.maxFrame) :
    Sound (sendFrame .gsr f (loadFrame f { s with gsr := markRequested g })) :=
  { ((hs.data.setGsr (gsrSound_markRequested hg hc)).loadFrame hf).sendFrame .gsr f, hs with
    guard := by simp
    gsrOwner := ⟨fun _ => rfl, fun _ => .inl rfl⟩
    gsrPending := by simp [ha, markRequested]
    codecOwner := by simp [ha]
    gsrFits := fun _ => by
      have hcount : gsrExpected (markRequested g) = gsrExpected g := by rw [gsrExpected, gsrCount_markRequested]; rfl
      rwa [← hcount] at hfits
    gsrKept := by simp [ha] }

theorem execGsrTxreq_sound : EveryNext Sound (execGsrTxreq s) := by
  refine everyNext_next.2 ?_
  split_ifs with hcount hb
  · exact hs.finish ha _
  · exact hs.finish ha _
  · have hfree := hs.unlocked_of_free (by simpa using hb)
    have hrebuilt := gsrSound_rebuildGsr hs.gsr
    have hu : (rebuildGsr s.gsr).Unlocked := by rwa [Gsr.Unlocked, rebuildGsr_phase]
    rcases requestGsr_cases s with h | ⟨f, hf, hfits, h | h⟩ <;> rw [h]
    · exact Sound.finish (s := clearFrame { s with gsr := rebuildGsr s.gsr })
        { (hs.data.setGsr hrebuilt).clearFrame, hs.setGsr hfree hrebuilt hu with } ha _
    · exact (((hs.data.setGsr hrebuilt).loadFrame (buildFrame_bounds hf)).sendFrame .gsr f).finish_release
        (hs.timer_of_idle ha) hu _
    · exact (hs.request_sent ha hrebuilt (by rwa [rebuildGsr_count]) hfits (buildFrame_bounds hf)).finish ha _

theorem execGsrRx_sound : EveryNext Sound (execGsrRx s) := by
  refine everyNext_next.2 ?_
  split_ifs with hp
  · exact hs.finish ha _
  · exact hs.startReceive_gsr (by simpa using hp)

theorem execGsrGetValue_sound (id address : Byte) : EveryNext Sound (execGsrGetValue id address s) := by
  refine everyNext_next.2 ?_
  split_ifs
  · exact hs.finishWith ha _ _
  · exact hs.finishWith ha _ _

theorem execGsrIdResult_sound (id : Byte) : EveryNext Sound (execGsrIdResult id s) := by
  refine everyNext_next.2 ?_
  split_ifs
  · exact hs.finishWith ha _ _
  · exact hs.finishWith ha _ _

/-- Every instruction that runs while no receive is active keeps a state sound. -/
theorem exec_sound (i : Instr) : EveryNext Sound (exec i s) := by
  cases i with
  | ping id => exact frameInstr_sound hs ha _ _ _
  | read id address length => exact frameInstr_sound hs ha _ _ _
  | write id address data => exact frameInstr_sound hs ha _ _ _
  | regwrite id address data => exact frameInstr_sound hs ha _ _ _
  | action id => exact frameInstr_sound hs ha _ _ _
  | syncread start len ids => exact frameInstr_sound hs ha _ _ _
  | syncwrite start len records => exact frameInstr_sound hs ha _ _ _
  | codecEncode id instr k => exact everyNext_next.2 (hs.encodeFrame ha id instr _)
  | codecTransmit expect => exact execCodecTransmit_sound hs ha expect
  | codecReceive id any nexp => exact execCodecReceive_sound hs ha id any nexp
  | codecChecksum n => exact everyNext_next.2 (hs.finishWith ha _ _)
  | codecScan id any n => exact execCodecScan_sound hs ha id any n
  | wordMake b0 b1 e => exact everyNext_next.2 (hs.finishWith ha _ _)
  | wordLobyte e => exact everyNext_next.2 (hs.finishWith ha _ _)
  | wordHibyte e => exact everyNext_next.2 (hs.finishWith ha _ _)
  | signToHost x => exact everyNext_next.2 (hs.finishWith ha _ _)
  | signToDevice x => exact everyNext_next.2 (hs.finishWith ha _ _)
  | gswInit start len => exact execGswInit_sound hs ha start len
  | gswAdd id n => exact execGswAdd_sound hs ha id n
  | gswRemove id => exact execGswRemove_sound hs ha id
  | gswChange id n => exact execGswChange_sound hs ha id n
  | gswClear => exact execGswClear_sound hs ha
  | gswTransmit => exact execGswTransmit_sound hs ha
  | gsrInit start len => exact execGsrInit_sound hs ha start len
  | gsrAdd id => exact execGsrAdd_sound hs ha id
  | gsrRemove id => exact execGsrRemove_sound hs ha id
  | gsrClear => exact execGsrClear_sound hs ha
  | gsrTxreq => exact execGsrTxreq_sound hs ha
  | gsrRx => exact execGsrRx_sound hs ha
  | gsrIsAvailable id address length => exact everyNext_next.2 (hs.finishWith ha _ _)
  | gsrGetValue id address => exact execGsrGetValue_sound hs ha id address
  | gsrIdResult id => exact execGsrIdResult_sound hs ha id

end

end Sys2Proof.Machine
end

section
/-! SUPPORT and the statement O59. The events of a receive, the host's accesses and reset keep a state sound, and so does every
step. -/

namespace Sys2Proof.Machine

/-! ### PARAM_BUF and the engines after reset -/

theorem areaOf_paramBuf_iff (off : Nat) : areaOf off = .paramBuf ↔ 0x100 ≤ off ∧ off < 0x200 := by
  unfold areaOf
  split_ifs <;> simp <;> omega

/-- A legal access that starts in PARAM_BUF ends in it (R46). -/
theorem legalAccess_paramBuf {off n : Nat} (hl : legalAccess off n = true) (h : areaOf off = .paramBuf) :
    0x100 ≤ off ∧ off + n ≤ 0x200 := by
  obtain ⟨hlo, hhi⟩ := (areaOf_paramBuf_iff off).1 h
  simp only [legalAccess, h, Bool.or_eq_true, Bool.and_eq_true, decide_eq_true_eq, areaOf_paramBuf_iff] at hl
  omega

theorem gswSound_reset : GswSound State.reset.gsw := by
  have hdev : ∀ i, gswDevOf State.reset.gsw i = GswDev.reset := fun i => by
    unfold gswDevOf
    split
    · exact Vector.getElem_replicate _
    · rfl
  refine (gswSound_iff _).2 ⟨⟨fun _ => (gswCount_eq_zero _).2 fun i => by rw [hdev]; rfl, fun _ => rfl⟩, nofun,
    fun i => ?_⟩
  rw [hdev]
  exact GswDev.reset_ok _

theorem gsrSound_reset : GsrSound State.reset.gsr := by
  have hdev : ∀ i, gsrDevOf State.reset.gsr i = GsrDev.reset := fun i => by
    unfold gsrDevOf
    split
    · exact Vector.getElem_replicate _
    · rfl
  refine (gsrSound_iff _).2 ⟨⟨fun _ => (gsrCount_eq_zero _).2 fun i => by rw [hdev]; rfl, fun _ => rfl⟩, nofun,
    fun i => ?_⟩
  rw [hdev]
  exact GsrDev.reset_ok _

section
variable {s : State} (hs : Sound s)
include hs

/-! ### The events of a receive (R87, R115, R133) -/

/-- While CODEC_RECEIVE is active the group-sync-read engine is unlocked (R35, R86). -/
theorem Sound.unlocked_of_codecReceive {x : Byte} {any : Bool} {nexp : Byte}
    (ha : s.active = some (.codecReceive x any nexp)) : s.gsr.Unlocked :=
  hs.unlocked_iff.2 (by simp [hs.codecOwner _ _ _ ha])

/-- While GSR_RX is active the set is not empty (R35, R107). -/
theorem Sound.gsrCount_of_gsrRx {nexp : Nat} (ha : s.active = some (.gsrRx nexp)) : gsrCount s.gsr ≠ 0 := fun h => by
  have hp := hs.gsrPending.2 ⟨nexp, ha⟩
  simpa [hp] using hs.gsr.phase.2 h

/-- Compaction by `c` bytes keeps an active CODEC_RECEIVE sound where fewer than 250 bytes stay (R87). -/
theorem Sound.appendRx_compactRx {x : Byte} {any : Bool} {nexp : Byte} (ha : s.active = some (.codecReceive x any nexp))
    (v : Byte) {c : Nat} (hd : DataSound (appendRx v s)) (hc : (appendRx v s).rxCount.toNat < c + Config.rxFrameMax) :
    Sound (compactRx c (appendRx v s)) :=
  { hd.compactRx c, hs with
    codecKept := fun _ _ _ _ => by
      simp only [compactRx_rxCount_toNat, Config.rxFrameMax] at hc ⊢
      omega
    gsrKept := fun n h => by simp [ha] at h }

theorem codecByte_sound {x : Byte} {any : Bool} {nexp : Byte} (ha : s.active = some (.codecReceive x any nexp)) (v : Byte) :
    Sound (codecByte x any v s) := by
  have hroom : s.rxCount.toNat < Config.rxCap := by
    have hkept := hs.codecKept _ _ _ ha
    have hcap := rxCap_ge
    simp only [Config.rxFrameMax] at hkept
    omega
  have hd := hs.data.appendRx v hroom
  have hu : (appendRx v s).gsr.Unlocked := hs.unlocked_of_codecReceive ha
  have hlen : (rxBytes (appendRx v s)).length = (appendRx v s).rxCount.toNat := bytesOf_length _ _ _
  unfold codecByte
  dsimp only
  rcases scan_cases (rxBytes (appendRx v s)) any x with h | ⟨j, -, h⟩ |
      ⟨j, -, h, hlt⟩ | ⟨j, p, h, -, hp, -⟩ <;> rw [h]
  · refine hs.appendRx_compactRx ha v hd ?_
    rw [hlen]
    exact Nat.lt_add_of_pos_right (by decide)
  · exact hd.endReceive hu _ _
  · exact hs.appendRx_compactRx ha v hd (by rwa [hlen] at hlt)
  · exact (hd.putPacket hp).endReceive hu _ _

theorem gsrByte_sound {nexp : Nat} (ha : s.active = some (.gsrRx nexp)) (v : Byte) : Sound (gsrByte nexp v s) := by
  have howner : s.owner = .gsr := hs.gsrOwner.1 (.inr (hs.gsrPending.2 ⟨nexp, ha⟩))
  obtain ⟨hexpected, hlt⟩ := hs.gsrKept nexp ha
  have hroom : s.rxCount.toNat < Config.rxCap := by
    have := hs.gsrFits howner
    omega
  have hd := hs.data.appendRx v hroom
  have hcount := appendRx_rxCount_toNat v hroom
  unfold gsrByte
  dsimp only
  split
  · exact hd.demux (hs.gsrCount_of_gsrRx ha) _
  · exact { hd, hs with
      codecKept := fun _ _ _ h => by simp [ha] at h
      gsrKept := fun n h => by
        obtain rfl : nexp = n := by simpa [ha] using h
        exact ⟨hexpected, by omega⟩ }

theorem receiveByte_sound (v : Byte) : Sound (receiveByte v s) := by
  unfold receiveByte
  split
  · exact hs
  · rename_i ha; exact codecByte_sound hs ha v
  · rename_i ha; exact gsrByte_sound hs ha v

theorem deliverByte_sound : Sound (deliverByte s) := by
  unfold deliverByte
  split
  · rename_i v q _ _
    exact receiveByte_sound (s := { s with transport := { s.transport with rxq := q } }) { hs with } v
  · exact hs

theorem receiveError_sound : Sound (receiveError s) := by
  unfold receiveError
  split
  · exact hs
  · rename_i ha; exact hs.data.endReceive (hs.unlocked_of_codecReceive ha) _ _
  · rename_i ha; exact hs.data.demux (hs.gsrCount_of_gsrRx ha) _

theorem receiveTimeout_sound : Sound (receiveTimeout s) := by
  unfold receiveTimeout
  split
  · split
    · exact hs
    · rename_i ha; exact hs.data.endReceive (hs.unlocked_of_codecReceive ha) _ _
    · rename_i ha; exact hs.data.demux (hs.gsrCount_of_gsrRx ha) _
  · exact hs

/-! ### The host's accesses and reset -/

theorem memWrite_sound {off n : Nat} (hl : legalAccess off n = true) (v : Word) : Sound (memWrite off n v s) := by
  unfold memWrite
  split_ifs with hstatus hbit hopa hparam
  · exact { hs with }
  · exact hs
  · exact { hs with }
  · obtain ⟨hlo, hhi⟩ := legalAccess_paramBuf hl hparam
    have hd : DataSound (storeBytes off (valueBytes v n) s) :=
      hs.data.storeBytes_low hlo (by simp only [valueBytes, List.length_map, List.length_range]; omega)
    exact { hd, hs with }
  · exact hs

/-- A dropped command keeps a state sound (R127). -/
theorem Sound.dropCommand : Sound (dropCommand s) := { hs with }

theorem launch_sound (v : Word) : EveryNext Sound (launch v s) := by
  unfold launch
  split
  · exact everyNext_next.2 hs.dropCommand
  · rename_i ha
    have ha : s.active = none := by simpa using ha
    split
    · exact exec_sound hs ha _
    · exact everyNext_next.2 (hs.finish ha _)

theorem hostWrite_sound (off n : Nat) (v : Word) : EveryNext Sound (hostWrite off n v s) := by
  unfold hostWrite
  split
  · rename_i hl
    split
    · exact launch_sound hs v
    · exact everyNext_next.2 (memWrite_sound hs hl v)
  · exact everyNext_fault

theorem hostRead_sound (off n : Nat) : EveryNext Sound (hostRead off n s) := by
  unfold hostRead
  split
  · exact everyNext_next.2 { hs with }
  · exact everyNext_fault

theorem hostPacket_sound (bytes : List Byte) : EveryNext Sound (hostPacket bytes s) := by
  unfold hostPacket
  split
  · rename_i i _
    split
    · exact everyNext_next.2 (Sound.dropCommand { hs.data.storeParams (wireParams i), hs with })
    · rename_i ha
      exact exec_sound hs (by simpa using ha) i
  · exact everyNext_refused

/-- Reset leaves a sound state (R140, R141): the transport's log stays and everything else has its reset value. -/
theorem resetBlock_sound : Sound (resetBlock s) :=
  DataSound.finish_release (s := resetBlock s)
    { memory := rfl
      buffers := nofun
      gsw := gswSound_reset
      gsr := gsrSound_reset
      txLen := .inl rfl
      pktCount := Nat.zero_le _
      rxCount := Nat.zero_le _
      shortWrites := hs.shortWrites }
    rfl ⟨nofun, nofun⟩ .success

/-! ### Every step -/

theorem perform_sound (e : Input) : EveryNext Sound (perform e s) := by
  cases e with
  | read off n => exact hostRead_sound hs off n
  | write off n v => exact hostWrite_sound hs off n v
  | packet bytes => exact hostPacket_sound hs bytes
  | arrive b => exact everyNext_next.2 { hs with }
  | deliver => exact everyNext_next.2 (deliverByte_sound hs)
  | readError => exact everyNext_next.2 (receiveError_sound hs)
  | timeout => exact everyNext_next.2 (receiveTimeout_sound hs)
  | reset => exact everyNext_next.2 (resetBlock_sound hs)

theorem step_sound : EveryNext Sound (step s) := by
  unfold step takeInput
  split
  · exact everyNext_next.2 (receiveTimeout_sound hs)
  · rename_i e rest _
    exact perform_sound (s := { s with inputs := rest }) { hs with } e

end

/-- Settles O59: every input keeps a state sound, each instruction by the rules of the operations it is built from. -/
theorem everyStepKeepsSoundness : Obligations.EveryStepKeepsSoundness := by
  unfold Obligations.EveryStepKeepsSoundness
  exact fun s t hs h => step_sound hs t h

end Sys2Proof.Machine
end

section
/-! SUPPORT and the statement O55. The transport's log of calls: what each instruction and each input adds to it. -/

namespace Sys2Proof.Machine

/-! ### One step and the log of calls -/

/-- No call of TransportWrite was made. -/
def KeepsLog (s t : State) : Prop := t.transport.log = s.transport.log

/-- One call of TransportWrite was made, with the guard free before and the outcome that was next (R11). -/
def SendsOnce (s t : State) : Prop :=
  s.busy = false ∧ ∃ f, t.transport.log = s.transport.log ++ [(f, nextOutcome f s)]

/-- The three commands that call TransportWrite (R85, R105, R113). -/
def isTransmit : Instr → Bool
  | .codecTransmit _ => true
  | .gswTransmit => true
  | .gsrTxreq => true
  | _ => false

theorem isTransmit_iff (i : Instr) :
    isTransmit i = true ↔ (∃ e, i = .codecTransmit e) ∨ i = .gswTransmit ∨ i = .gsrTxreq := by
  cases i <;> simp [isTransmit]

/-- The launch of a transmit: a CMD write of one of them with no receive active, and one call of TransportWrite. -/
def LaunchesTransmit (e : Input) (s t : State) : Prop :=
  s.active = none ∧ SendsOnce s t ∧
    ∃ w i, e = .write 0x000 4 w ∧ decode (.command w) = .ok i ∧ isTransmit i = true

/-! ### The three transmits -/

section
variable (s : State)

theorem execCodecTransmit_log (expect : Bool) :
    EveryNext (fun t => KeepsLog s t ∨ SendsOnce s t) (execCodecTransmit expect s) := by
  refine everyNext_next.2 ?_
  split_ifs with hb htx
  · exact .inl rfl
  · exact .inl rfl
  · refine .inr ⟨by simpa using hb, txFrame s, ?_⟩
    rcases transmitFrame_cases expect s with h | h | h <;> rw [h] <;> rfl

theorem execGswTransmit_log : EveryNext (fun t => KeepsLog s t ∨ SendsOnce s t) (execGswTransmit s) := by
  refine everyNext_next.2 ?_
  split_ifs with hcount hb
  · exact .inl rfl
  · exact .inl rfl
  · have hb : s.busy = false := by simpa using hb
    rcases transmitGsw_cases s with h | ⟨f, -, h | h⟩ <;> rw [h]
    · exact .inl rfl
    · exact .inr ⟨hb, f, rfl⟩
    · exact .inr ⟨hb, f, rfl⟩

theorem execGsrTxreq_log : EveryNext (fun t => KeepsLog s t ∨ SendsOnce s t) (execGsrTxreq s) := by
  refine everyNext_next.2 ?_
  split_ifs with hcount hb
  · exact .inl rfl
  · exact .inl rfl
  · have hb : s.busy = false := by simpa using hb
    rcases requestGsr_cases s with h | ⟨f, -, -, h | h⟩ <;> rw [h]
    · exact .inl rfl
    · exact .inr ⟨hb, f, rfl⟩
    · exact .inr ⟨hb, f, rfl⟩

/-! ### Every other instruction -/

theorem frameInstr_log (id instr : Byte) (p : List Byte) : EveryNext (KeepsLog s) (frameInstr id instr p s) := by
  refine everyNext_next.2 ?_
  rcases encodeFrame_cases id instr p (storeParams p s) with ⟨-, h⟩ | ⟨-, f, -, -, h⟩ <;> rw [h] <;> rfl

theorem execCodecEncode_log (id instr k : Byte) : EveryNext (KeepsLog s) (execCodecEncode id instr k s) := by
  refine everyNext_next.2 ?_
  rcases encodeFrame_cases id instr (paramBytes s k) s with ⟨-, h⟩ | ⟨-, f, -, -, h⟩ <;> rw [h] <;> rfl

theorem execCodecScan_log (id : Byte) (any : Bool) (n : Byte) : EveryNext (KeepsLog s) (execCodecScan id any n s) := by
  refine everyNext_next.2 ?_
  split <;> rfl

theorem execCodecReceive_log (id : Byte) (any : Bool) (nexp : Byte) :
    EveryNext (KeepsLog s) (execCodecReceive id any nexp s) := by
  refine everyNext_next.2 ?_
  dsimp only
  split_ifs <;> rfl

/-- An instruction that is no transmit leaves the log alone: each is a chain of checks and of operations that write other
fields. -/
theorem exec_keepsLog {i : Instr} (hi : isTransmit i = false) : EveryNext (KeepsLog s) (exec i s) := by
  cases i with
  | ping id => exact frameInstr_log s _ _ _
  | read id address length => exact frameInstr_log s _ _ _
  | write id address data => exact frameInstr_log s _ _ _
  | regwrite id address data => exact frameInstr_log s _ _ _
  | action id => exact frameInstr_log s _ _ _
  | syncread start len ids => exact frameInstr_log s _ _ _
  | syncwrite start len records => exact frameInstr_log s _ _ _
  | codecEncode id instr k => exact execCodecEncode_log s id instr k
  | codecTransmit expect => simp [isTransmit] at hi
  | codecReceive id any nexp => exact execCodecReceive_log s id any nexp
  | codecChecksum n => exact everyNext_next.2 rfl
  | codecScan id any n => exact execCodecScan_log s id any n
  | wordMake b0 b1 e => exact everyNext_next.2 rfl
  | wordLobyte e => exact everyNext_next.2 rfl
  | wordHibyte e => exact everyNext_next.2 rfl
  | signToHost x => exact everyNext_next.2 rfl
  | signToDevice x => exact everyNext_next.2 rfl
  | gswInit start len => exact everyNext_next.2 rfl
  | gswAdd id n => exact everyNext_next.2 (by split_ifs <;> rfl)
  | gswRemove id => exact everyNext_next.2 (by split_ifs <;> rfl)
  | gswChange id n => exact everyNext_next.2 (by split_ifs <;> rfl)
  | gswClear => exact everyNext_next.2 rfl
  | gswTransmit => simp [isTransmit] at hi
  | gsrInit start len => exact everyNext_next.2 (by split_ifs <;> rfl)
  | gsrAdd id => exact everyNext_next.2 (by split_ifs <;> rfl)
  | gsrRemove id => exact everyNext_next.2 (by split_ifs <;> rfl)
  | gsrClear => exact everyNext_next.2 (by split_ifs <;> rfl)
  | gsrTxreq => simp [isTransmit] at hi
  | gsrRx => exact everyNext_next.2 (by split_ifs <;> rfl)
  | gsrIsAvailable id address length => exact everyNext_next.2 rfl
  | gsrGetValue id address => exact everyNext_next.2 (by split_ifs <;> rfl)
  | gsrIdResult id => exact everyNext_next.2 (by split_ifs <;> rfl)

/-- Any instruction leaves the log alone, or is a transmit and adds one call. -/
theorem exec_log (i : Instr) :
    EveryNext (fun t => KeepsLog s t ∨ (isTransmit i = true ∧ SendsOnce s t)) (exec i s) := by
  intro t h
  cases hi : isTransmit i with
  | false => exact .inl (exec_keepsLog s hi t h)
  | true =>
    refine Or.imp_right (fun hsends => ⟨rfl, hsends⟩) ?_
    rcases (isTransmit_iff i).1 hi with ⟨e, rfl⟩ | rfl | rfl
    · exact execCodecTransmit_log s e t h
    · exact execGswTransmit_log s t h
    · exact execGsrTxreq_log s t h

end

/-- What the fields of a packet decode to is the wire instruction of their INSTR byte (R64). -/
theorem wireOpcode_of_decodeFields {id instr : Byte} {p : List Byte} {i : Instr} (h : decodeFields id instr p = .ok i) :
    wireOpcode i = some instr := by
  have hrow : ∀ {n : Nat} {j : Instr}, instr.toNat = n → wireOpcode j = some (BitVec.ofNat 8 n) →
      (.ok j : Except DecodeError Instr) = .ok i → wireOpcode i = some instr := fun hn hj hok => by
    rw [← Except.ok.inj hok, hj, ← hn]; simp
  unfold decodeFields at h
  split at h
  case h_1 => exact hrow ‹_› rfl h
  case h_2 => exact hrow ‹_› rfl h
  case h_3 => exact hrow ‹_› rfl h
  case h_4 => exact hrow ‹_› rfl h
  case h_5 => exact hrow ‹_› rfl h
  case h_6 =>
    split at h
    · exact hrow ‹_› rfl h
    · cases h
  case h_7 =>
    split at h
    · split at h
      · exact hrow ‹_› rfl h
      · cases h
    · cases h
  case h_8 => split at h <;> cases h

/-- What a packet decodes to is a wire instruction (R64). -/
theorem wireOpcode_of_packet {f : List Byte} {i : Instr} (h : decode (.packet f) = .ok i) : ∃ op, wireOpcode i = some op := by
  simp only [decode, decodePacket] at h
  split_ifs at h
  split at h
  · exact ⟨_, wireOpcode_of_decodeFields h⟩
  · cases h

/-- A transmit is no wire instruction (R64, R68). -/
theorem wireOpcode_of_isTransmit {i : Instr} (h : isTransmit i = true) : wireOpcode i = none := by
  rcases (isTransmit_iff i).1 h with ⟨e, rfl⟩ | rfl | rfl <;> rfl

/-! ### The other inputs -/

section
variable (s : State)

theorem receiveByte_log (v : Byte) : KeepsLog s (receiveByte v s) := by
  unfold receiveByte
  split
  · rfl
  · unfold codecByte
    dsimp only
    split <;> rfl
  · unfold gsrByte
    dsimp only
    split <;> rfl

theorem deliverByte_log : KeepsLog s (deliverByte s) := by
  unfold deliverByte
  split
  · exact receiveByte_log _ _
  · rfl

theorem receiveError_log : KeepsLog s (receiveError s) := by
  unfold receiveError
  split <;> rfl

theorem receiveTimeout_log : KeepsLog s (receiveTimeout s) := by
  unfold receiveTimeout
  split
  · split <;> rfl
  · rfl

theorem memWrite_log (off n : Nat) (v : Word) : KeepsLog s (memWrite off n v s) := by
  unfold memWrite
  split_ifs <;> rfl

theorem hostPacket_log (bytes : List Byte) : EveryNext (KeepsLog s) (hostPacket bytes s) := by
  unfold hostPacket
  split
  · rename_i i hi
    split
    · exact everyNext_next.2 rfl
    · obtain ⟨op, hop⟩ := wireOpcode_of_packet hi
      refine exec_keepsLog s (Bool.eq_false_iff.2 fun htransmit => ?_)
      simp [wireOpcode_of_isTransmit htransmit] at hop
  · exact everyNext_refused

/-- The only legal access at CMD is of 4 bytes (R46). -/
theorem legalAccess_cmd {n : Nat} (h : legalAccess 0x000 n = true) : n = 4 := by
  simpa [legalAccess, areaOf] using h

theorem hostWrite_log (off n : Nat) (v : Word) :
    EveryNext (fun t => KeepsLog s t ∨ LaunchesTransmit (.write off n v) s t) (hostWrite off n v s) := by
  unfold hostWrite
  split
  · rename_i hl
    split
    · rename_i hoff
      obtain rfl := hoff
      obtain rfl := legalAccess_cmd hl
      unfold launch
      split
      · exact everyNext_next.2 (.inl rfl)
      · rename_i ha
        split
        · rename_i i hi
          exact fun t h => (exec_log s i t h).imp_right fun ⟨htransmit, hsends⟩ =>
            ⟨by simpa using ha, hsends, v, i, rfl, hi, htransmit⟩
        · exact everyNext_next.2 (.inl rfl)
    · exact everyNext_next.2 (.inl (memWrite_log s off n v))
  · exact everyNext_fault

/-- An input leaves the log alone, or launches a transmit. -/
theorem perform_log (e : Input) : EveryNext (fun t => KeepsLog s t ∨ LaunchesTransmit e s t) (perform e s) := by
  cases e with
  | read off n =>
    change EveryNext _ (hostRead off n s)
    unfold hostRead
    split
    · exact everyNext_next.2 (.inl rfl)
    · exact everyNext_fault
  | write off n v => exact hostWrite_log s off n v
  | packet bytes => exact fun t h => .inl (hostPacket_log s bytes t h)
  | arrive b => exact everyNext_next.2 (.inl rfl)
  | deliver => exact everyNext_next.2 (.inl (deliverByte_log s))
  | readError => exact everyNext_next.2 (.inl (receiveError_log s))
  | timeout => exact everyNext_next.2 (.inl (receiveTimeout_log s))
  | reset => exact everyNext_next.2 (.inl rfl)

/-- A step leaves the log alone, or launches a transmit. -/
theorem step_log {t : State} (h : step s = .next t) :
    KeepsLog s t ∨ ∃ e rest, s.inputs = e :: rest ∧ LaunchesTransmit e s t := by
  unfold step takeInput at h
  split at h
  · obtain rfl := Host.Outcome.next.inj h
    exact .inl (receiveTimeout_log s)
  · rename_i e rest hinputs
    exact (perform_log { s with inputs := rest } e t h).imp_right fun hlaunch => ⟨e, rest, hinputs, hlaunch⟩

/-! ### Events without a receive -/

/-- With no receive active a delivery, a read error and a timeout change nothing (R133). -/
theorem perform_event_idle {e : Input} (ha : s.active = none) (he : e = .deliver ∨ e = .readError ∨ e = .timeout) :
    perform e s = .next s := by
  rcases he with rfl | rfl | rfl
  · simp [perform, deliverByte, ha]
  · simp [perform, receiveError, ha]
  · simp [perform, receiveTimeout, ha]

theorem step_cons {e : Input} {rest : List Input} (h : s.inputs = e :: rest) :
    step s = perform e { s with inputs := rest } := by
  simp only [step, takeInput, h]

/-- The outcome of each answer of the transport (R132). -/
theorem nextOutcome_of_answer (f : List Byte) :
    (nextAnswer s = .count f.length → nextOutcome f s = .full) ∧
    (∀ c, c < f.length → nextAnswer s = .count c → nextOutcome f s = .short c) ∧
    (nextAnswer s = .error → nextOutcome f s = .error) := by
  refine ⟨fun h => ?_, fun c hc h => ?_, fun h => ?_⟩
  · simp [nextOutcome, outcomeOf, h]
  · simp [nextOutcome, outcomeOf, h, hc]
  · simp [nextOutcome, outcomeOf, h]

end

/-- Settles O55: the log by `step_log`, the outcomes by `nextOutcome_of_answer`, and the events input by input. -/
theorem onlyTransmitsWriteToTheBus : Obligations.OnlyTransmitsWriteToTheBus := by
  unfold Obligations.OnlyTransmitsWriteToTheBus
  refine ⟨fun s t h hlog => ?_, fun f s => ?_, fun s b rest h => ?_, fun s e rest ha h he => ?_⟩
  · obtain hkeeps | ⟨e, rest, hinputs, ha, ⟨hb, hsent⟩, w, i, rfl, hi, htransmit⟩ := step_log s h
    · exact absurd hkeeps hlog
    · exact ⟨hb, ha, hsent, w, rest, i, hinputs, hi, (isTransmit_iff i).1 htransmit⟩
  · obtain ⟨hfull, hshort, herror⟩ := nextOutcome_of_answer s f
    exact ⟨hfull, hshort, herror, fun c => nextOutcome_short_lt⟩
  · exact step_cons s h
  · rw [step_cons s h]
    exact perform_event_idle _ ha he

end Sys2Proof.Machine
end

section
/-! SUPPORT and the statements O58, O5 and O6. The reset state, and the register area: a word read of it returns the register's
word, and a register's word is the sum of its fields at their bits. -/

namespace Sys2Proof.Machine

/-- Settles O58: no command has run yet, the guard is free and both tables are empty. -/
theorem resetStateIsSound : Obligations.ResetStateIsSound := by
  unfold Obligations.ResetStateIsSound
  exact DataSound.finish_release (s := State.reset)
    { memory := reset_memory_wf
      buffers := nofun
      gsw := gswSound_reset
      gsr := gsrSound_reset
      txLen := .inl rfl
      pktCount := Nat.zero_le _
      rxCount := Nat.zero_le _
      shortWrites := nofun }
    rfl ⟨nofun, nofun⟩ .success

/-! ### Word accesses of the register area (R46, R48, R49) -/

/-- R16: the register area is the first 0x100 offsets. -/
theorem areaOf_register {off : Nat} (h : off < 0x100) : areaOf off = .registers := if_pos h

/-- R46: 4 aligned bytes of the register area are a legal access. -/
theorem legalAccess_register {off : Nat} (h : off < 0x100) (ha : off % 4 = 0) : legalAccess off 4 = true := by
  simp [legalAccess, areaOf_register h, ha]

/-- R48: the bytes of an aligned register are those of its word, the lowest first. -/
theorem byteAt_register (s : State) {off j : Nat} (h : off < 0x100) (ha : off % 4 = 0) (hj : j < 4) :
    byteAt s (off + j) = (regWord s off).extractLsb' (8 * j) 8 := by
  have hmod : (off + j) % 4 = j := by omega
  simp only [byteAt, areaOf_register (show off + j < 0x100 by omega), hmod, Nat.add_sub_cancel]

/-- R45: the four bytes of a word, the lowest first, are the word. -/
theorem ofNat_littleEndian_word (w : Word) :
    BitVec.ofNat 32 (littleEndian ((List.range 4).map fun j => w.extractLsb' (8 * j) 8)) = w := by
  refine BitVec.eq_of_toNat_eq ?_
  have hw := w.isLt
  simp only [show List.range 4 = [0, 1, 2, 3] from rfl, List.map_cons, List.map_nil, littleEndian,
    BitVec.extractLsb'_toNat, Nat.shiftRight_eq_div_pow, BitVec.toNat_ofNat]
  omega

/-- R48: a word read of the register area returns the register's word. -/
theorem memRead_register (s : State) {off : Nat} (h : off < 0x100) (ha : off % 4 = 0) :
    memRead s off 4 = regWord s off := by
  have hbytes : (List.range 4).map (fun j => byteAt s (off + j)) =
      (List.range 4).map (fun j => (regWord s off).extractLsb' (8 * j) 8) :=
    List.map_congr_left fun j hj => byteAt_register s h ha (List.mem_range.1 hj)
  rw [memRead, hbytes, ofNat_littleEndian_word]

/-- R16: the offsets of the register area above GSRINFO are reserved and read 0. -/
theorem regWord_reserved (s : State) {off : Nat} (h : 0x024 ≤ off) : regWord s off = 0 := by
  unfold regWord
  split
  case h_9 => rfl
  all_goals omega

/-- R49: a word written to a register other than CMD is one write of the window. -/
theorem step_write_register {s : State} {off : Nat} {v : Word} {rest : List Input}
    (h : s.inputs = .write off 4 v :: rest) (hoff : off < 0x100) (ha : off % 4 = 0) (hcmd : off ≠ 0x000) :
    step s = .next (memWrite off 4 v { s with inputs := rest }) := by
  rw [step_cons s h]
  simp only [perform, hostWrite, legalAccess_register hoff ha, if_true, if_neg hcmd]

/-- Settles O5: the write sets OPA, and a read of the register area returns the register's word. -/
theorem opaReadsBack : Obligations.OpaReadsBack := by
  unfold Obligations.OpaReadsBack
  exact fun s v rest h =>
    ⟨step_write_register h (by decide) rfl (by decide), memRead_register _ (off := 0x008) (by decide) rfl⟩

/-! ### The registers' words as the sums of their fields (R18 to R25) -/

/-- Fields side by side: the upper one has the weight of the lower one's width. -/
theorem toNat_append_eq_add {m n : Nat} (x : BitVec m) (y : BitVec n) :
    (x ++ y).toNat = 2 ^ n * x.toNat + y.toNat := by
  rw [BitVec.toNat_append, ← Nat.shiftLeft_add_eq_or_of_lt y.isLt, Nat.shiftLeft_eq, Nat.mul_comm]

@[simp] theorem flagBit_toNat (b : Bool) : (flagBit b).toNat = b.toNat := BitVec.toNat_ofBool b

theorem statusWord_toNat (s : State) :
    (statusWord s).toNat = (codeByte s.code).toNat + 2 ^ 8 * s.active.isSome.toNat + 2 ^ 9 * s.busy.toNat +
      2 ^ 10 * (ownerBits s.owner).toNat + 2 ^ 12 * s.overrun.toNat + 2 ^ 13 * s.pktValid.toNat := by
  simp only [statusWord, toNat_append_eq_add, flagBit_toNat, BitVec.toNat_ofNat]
  omega

theorem pktInfoWord_toNat (p : PktInfo) :
    (pktInfoWord p).toNat = p.id.toNat + 2 ^ 8 * p.error.toNat + 2 ^ 16 * p.count.toNat := by
  simp only [pktInfoWord, toNat_append_eq_add, BitVec.toNat_ofNat]
  omega

theorem txInfoWord_toNat (s : State) : (txInfoWord s).toNat = s.txLen.toNat := by
  simp only [txInfoWord, toNat_append_eq_add, BitVec.toNat_ofNat]
  omega

theorem rxInfoWord_toNat (s : State) :
    (rxInfoWord s).toNat = s.rxCount.toNat + 2 ^ 16 * (endBits s.rxEnd).toNat := by
  simp only [rxInfoWord, toNat_append_eq_add, BitVec.toNat_ofNat]
  omega

/-- COUNT fits its 8 bits: there are 253 IDs (R24). -/
theorem gswInfoWord_toNat (g : Gsw) :
    (gswInfoWord g).toNat = g.start.toNat + 2 ^ 8 * g.len.toNat + 2 ^ 16 * gswCount g +
      2 ^ 24 * (gswPhaseBits g.phase).toNat + 2 ^ 26 * g.dirty.toNat := by
  have hcount := gswCount_le g
  simp only [gswInfoWord, toNat_append_eq_add, flagBit_toNat, BitVec.toNat_ofNat, Config.idSlots] at hcount ⊢
  omega

/-- COUNT fits its 8 bits: there are 253 IDs (R25). -/
theorem gsrInfoWord_toNat (g : Gsr) :
    (gsrInfoWord g).toNat = g.start.toNat + 2 ^ 8 * g.len.toNat + 2 ^ 16 * gsrCount g +
      2 ^ 24 * (gsrPhaseBits g.phase).toNat + 2 ^ 27 * g.dirty.toNat + 2 ^ 28 * g.lastOk.toNat := by
  have hcount := gsrCount_le g
  simp only [gsrInfoWord, toNat_append_eq_add, flagBit_toNat, BitVec.toNat_ofNat, Config.idSlots] at hcount ⊢
  omega

/-- Settles O6: each read is the register's word by `memRead_register`, and the words are taken apart field by field. -/
theorem registerFieldsReadAtTheirBits : Obligations.RegisterFieldsReadAtTheirBits := by
  unfold Obligations.RegisterFieldsReadAtTheirBits
  refine ⟨fun s => ?_, rfl, rfl, rfl, rfl, rfl⟩
  have hread : ∀ off, off < 0x100 → off % 4 = 0 → memRead s off 4 = regWord s off := fun _ => memRead_register s
  refine ⟨hread 0x000 (by decide) rfl, ?_, hread 0x008 (by decide) rfl, hread 0x00C (by decide) rfl, ?_, ?_, ?_, ?_, ?_,
    fun off h1 h2 ha => (hread off h2 ha).trans (regWord_reserved s h1)⟩
  · rw [hread 0x004 (by decide) rfl]; exact statusWord_toNat s
  · rw [hread 0x010 (by decide) rfl]; exact pktInfoWord_toNat s.pktInfo
  · rw [hread 0x014 (by decide) rfl]; exact txInfoWord_toNat s
  · rw [hread 0x018 (by decide) rfl]; exact rxInfoWord_toNat s
  · rw [hread 0x01C (by decide) rfl]; exact gswInfoWord_toNat s.gsw
  · rw [hread 0x020 (by decide) rfl]; exact gsrInfoWord_toNat s.gsr

end Sys2Proof.Machine
end

section
/-! SUPPORT and the statement O8. The fields that no command and no event of a receive writes, OVERRUN among them, and the inputs
that clear OVERRUN. -/

namespace Sys2Proof.Machine

/-! ### The fields no command writes -/

/-- The fields that only a host access, reset or the taking of an input writes. -/
structure HostFields where
  overrun : Bool
  opa : Word
  busData : Word
  resets : Nat
  inputs : List Input

/-- Those fields of a state. -/
def hostFields (s : State) : HostFields where
  overrun := s.overrun
  opa := s.opa
  busData := s.busData
  resets := s.resets
  inputs := s.inputs

/-- Only other fields were written. -/
def KeepsHostFields (s t : State) : Prop := hostFields t = hostFields s

theorem KeepsHostFields.overrun {s t : State} (h : KeepsHostFields s t) : t.overrun = s.overrun :=
  congrArg HostFields.overrun h

section
variable (s : State)

/-! The shared operations that branch. -/

theorem encodeFrame_hostFields (id instr : Byte) (p : List Byte) : KeepsHostFields s (encodeFrame id instr p s) := by
  rcases encodeFrame_cases id instr p s with ⟨-, h⟩ | ⟨-, f, -, -, h⟩ <;> rw [h] <;> rfl

theorem transmitFrame_hostFields (expect : Bool) : KeepsHostFields s (transmitFrame expect s) := by
  rcases transmitFrame_cases expect s with h | h | h <;> rw [h] <;> rfl

theorem transmitGsw_hostFields : KeepsHostFields s (transmitGsw s) := by
  rcases transmitGsw_cases s with h | ⟨f, -, h | h⟩ <;> rw [h] <;> rfl

theorem requestGsr_hostFields : KeepsHostFields s (requestGsr s) := by
  rcases requestGsr_cases s with h | ⟨f, -, -, h | h⟩ <;> rw [h] <;> rfl

/-! The commands built from them. -/

theorem frameInstr_hostFields (id instr : Byte) (p : List Byte) :
    EveryNext (KeepsHostFields s) (frameInstr id instr p s) :=
  everyNext_next.2 (encodeFrame_hostFields (storeParams p s) id instr p)

theorem execCodecTransmit_hostFields (expect : Bool) : EveryNext (KeepsHostFields s) (execCodecTransmit expect s) := by
  refine everyNext_next.2 ?_
  split_ifs
  · rfl
  · rfl
  · exact transmitFrame_hostFields s expect

theorem execCodecReceive_hostFields (id : Byte) (any : Bool) (nexp : Byte) :
    EveryNext (KeepsHostFields s) (execCodecReceive id any nexp s) := by
  refine everyNext_next.2 ?_
  dsimp only
  split_ifs <;> rfl

theorem execCodecScan_hostFields (id : Byte) (any : Bool) (n : Byte) :
    EveryNext (KeepsHostFields s) (execCodecScan id any n s) := by
  refine everyNext_next.2 ?_
  split <;> rfl

theorem execGswTransmit_hostFields : EveryNext (KeepsHostFields s) (execGswTransmit s) := by
  refine everyNext_next.2 ?_
  split_ifs
  · rfl
  · rfl
  · exact transmitGsw_hostFields s

theorem execGsrTxreq_hostFields : EveryNext (KeepsHostFields s) (execGsrTxreq s) := by
  refine everyNext_next.2 ?_
  split_ifs
  · rfl
  · rfl
  · exact requestGsr_hostFields s

/-- No instruction writes the host's fields: the others are chains of checks that end in updates of other fields. -/
theorem exec_hostFields (i : Instr) : EveryNext (KeepsHostFields s) (exec i s) := by
  cases i with
  | ping id => exact frameInstr_hostFields s _ _ _
  | read id address length => exact frameInstr_hostFields s _ _ _
  | write id address data => exact frameInstr_hostFields s _ _ _
  | regwrite id address data => exact frameInstr_hostFields s _ _ _
  | action id => exact frameInstr_hostFields s _ _ _
  | syncread start len ids => exact frameInstr_hostFields s _ _ _
  | syncwrite start len records => exact frameInstr_hostFields s _ _ _
  | codecEncode id instr k => exact everyNext_next.2 (encodeFrame_hostFields s id instr _)
  | codecTransmit expect => exact execCodecTransmit_hostFields s expect
  | codecReceive id any nexp => exact execCodecReceive_hostFields s id any nexp
  | codecChecksum n => exact everyNext_next.2 rfl
  | codecScan id any n => exact execCodecScan_hostFields s id any n
  | wordMake b0 b1 e => exact everyNext_next.2 rfl
  | wordLobyte e => exact everyNext_next.2 rfl
  | wordHibyte e => exact everyNext_next.2 rfl
  | signToHost x => exact everyNext_next.2 rfl
  | signToDevice x => exact everyNext_next.2 rfl
  | gswInit start len => exact everyNext_next.2 rfl
  | gswAdd id n => exact everyNext_next.2 (by split_ifs <;> rfl)
  | gswRemove id => exact everyNext_next.2 (by split_ifs <;> rfl)
  | gswChange id n => exact everyNext_next.2 (by split_ifs <;> rfl)
  | gswClear => exact everyNext_next.2 rfl
  | gswTransmit => exact execGswTransmit_hostFields s
  | gsrInit start len => exact everyNext_next.2 (by split_ifs <;> rfl)
  | gsrAdd id => exact everyNext_next.2 (by split_ifs <;> rfl)
  | gsrRemove id => exact everyNext_next.2 (by split_ifs <;> rfl)
  | gsrClear => exact everyNext_next.2 (by split_ifs <;> rfl)
  | gsrTxreq => exact execGsrTxreq_hostFields s
  | gsrRx => exact everyNext_next.2 (by split_ifs <;> rfl)
  | gsrIsAvailable id address length => exact everyNext_next.2 rfl
  | gsrGetValue id address => exact everyNext_next.2 (by split_ifs <;> rfl)
  | gsrIdResult id => exact everyNext_next.2 (by split_ifs <;> rfl)

/-! The events of a receive (R133). -/

theorem receiveByte_hostFields (v : Byte) : KeepsHostFields s (receiveByte v s) := by
  unfold receiveByte
  split
  · rfl
  · unfold codecByte
    dsimp only
    split <;> rfl
  · unfold gsrByte
    dsimp only
    split <;> rfl

theorem deliverByte_hostFields : KeepsHostFields s (deliverByte s) := by
  unfold deliverByte
  split
  · exact receiveByte_hostFields _ _
  · rfl

theorem receiveError_hostFields : KeepsHostFields s (receiveError s) := by
  unfold receiveError
  split <;> rfl

theorem receiveTimeout_hostFields : KeepsHostFields s (receiveTimeout s) := by
  unfold receiveTimeout
  split
  · split <;> rfl
  · rfl

end

/-! ### What clears OVERRUN (R18) -/

/-- A write of 1 to bit 12 of STATUS, or reset. -/
def ClearsOverrun (e : Input) : Prop := e = .reset ∨ ∃ v : Word, v.getLsbD 12 = true ∧ e = .write 0x004 4 v

/-- OVERRUN, once set, stays set. -/
def KeepsOverrun (s t : State) : Prop := s.overrun = true → t.overrun = true

theorem KeepsHostFields.keepsOverrun {s t : State} (h : KeepsHostFields s t) : KeepsOverrun s t := fun hs =>
  h.overrun.trans hs

section
variable (s : State)

theorem exec_keepsOverrun (i : Instr) : EveryNext (KeepsOverrun s) (exec i s) := fun t h =>
  (exec_hostFields s i t h).keepsOverrun

theorem launch_keepsOverrun (v : Word) : EveryNext (KeepsOverrun s) (launch v s) := by
  unfold launch
  split
  · exact everyNext_next.2 fun _ => rfl
  · split
    · exact exec_keepsOverrun s _
    · exact everyNext_next.2 id

theorem hostPacket_keepsOverrun (bytes : List Byte) : EveryNext (KeepsOverrun s) (hostPacket bytes s) := by
  unfold hostPacket
  split
  · split
    · exact everyNext_next.2 fun _ => rfl
    · exact exec_keepsOverrun s _
  · exact everyNext_refused

theorem hostRead_keepsOverrun (off n : Nat) : EveryNext (KeepsOverrun s) (hostRead off n s) := by
  unfold hostRead
  split
  · exact everyNext_next.2 id
  · exact everyNext_fault

/-- A legal access that starts in the register area is of 4 bytes (R46). -/
theorem legalAccess_register_size {off n : Nat} (h : off < 0x100) (hl : legalAccess off n = true) : n = 4 := by
  simp only [legalAccess, areaOf_register h, Bool.and_eq_true, decide_eq_true_eq] at hl
  exact hl.1

theorem memWrite_overrun {off n : Nat} (hl : legalAccess off n = true) (v : Word) :
    KeepsOverrun s (memWrite off n v s) ∨ ClearsOverrun (.write off n v) := by
  unfold memWrite
  split_ifs with hstatus hbit
  · obtain rfl := hstatus
    obtain rfl := legalAccess_register_size (by decide) hl
    exact .inr (.inr ⟨v, hbit, rfl⟩)
  all_goals exact .inl id

theorem hostWrite_overrun (off n : Nat) (v : Word) :
    EveryNext (fun t => KeepsOverrun s t ∨ ClearsOverrun (.write off n v)) (hostWrite off n v s) := by
  unfold hostWrite
  split
  · rename_i hl
    split
    · exact fun t h => .inl (launch_keepsOverrun s v t h)
    · exact everyNext_next.2 (memWrite_overrun s hl v)
  · exact everyNext_fault

theorem perform_overrun (e : Input) : EveryNext (fun t => KeepsOverrun s t ∨ ClearsOverrun e) (perform e s) := by
  cases e with
  | read off n => exact fun t h => .inl (hostRead_keepsOverrun s off n t h)
  | write off n v => exact hostWrite_overrun s off n v
  | packet bytes => exact fun t h => .inl (hostPacket_keepsOverrun s bytes t h)
  | arrive b => exact everyNext_next.2 (.inl id)
  | deliver => exact everyNext_next.2 (.inl (deliverByte_hostFields s).keepsOverrun)
  | readError => exact everyNext_next.2 (.inl (receiveError_hostFields s).keepsOverrun)
  | timeout => exact everyNext_next.2 (.inl (receiveTimeout_hostFields s).keepsOverrun)
  | reset => exact everyNext_next.2 (.inr (.inl rfl))

/-- A step keeps a set OVERRUN, or its input is one that clears it. -/
theorem step_overrun {t : State} (h : step s = .next t) :
    KeepsOverrun s t ∨ ∃ e rest, s.inputs = e :: rest ∧ ClearsOverrun e := by
  unfold step takeInput at h
  split at h
  · obtain rfl := Host.Outcome.next.inj h
    exact .inl (receiveTimeout_hostFields s).keepsOverrun
  · rename_i e rest hinputs
    exact (perform_overrun { s with inputs := rest } e t h).imp_right fun hclears => ⟨e, rest, hinputs, hclears⟩

end

/-! ### The steps of R127 and R49 -/

/-- A CMD write while a receive is active is dropped (R127). -/
theorem step_cmd_active {s : State} {w : Word} {rest : List Input} (h : s.inputs = .write 0x000 4 w :: rest)
    (ha : s.active.isSome = true) : step s = .next (dropCommand { s with inputs := rest }) := by
  rw [step_cons s h]
  simp only [perform, hostWrite, legalAccess_register (off := 0x000) (by decide) rfl, launch, ha, if_true]

/-- What a write to STATUS does (R49). -/
theorem memWrite_status (n : Nat) (v : Word) (s : State) :
    memWrite 0x004 n v s = if v.getLsbD 12 then { s with overrun := false } else s := if_pos rfl

/-- Settles O8: the drop by `step_cmd_active`, the write to STATUS by `memWrite_status`, and what clears OVERRUN by
`step_overrun`. -/
theorem dropSetsOnlyOverrun : Obligations.DropSetsOnlyOverrun := by
  unfold Obligations.DropSetsOnlyOverrun
  refine ⟨fun s w rest ha h => step_cmd_active h ha, fun s v rest h => ?_, fun s t h hset hclear => ?_⟩
  · rw [step_write_register h (by decide) rfl (by decide), memWrite_status]
    exact ⟨fun hbit => by rw [if_pos hbit], fun hbit => by rw [if_neg (Bool.eq_false_iff.1 hbit)]⟩
  · obtain hkeeps | ⟨e, rest, hinputs, rfl | ⟨v, hbit, rfl⟩⟩ := step_overrun s h
    · simp [hkeeps hset] at hclear
    · exact ⟨rest, .inl hinputs⟩
    · exact ⟨rest, .inr ⟨v, hbit, hinputs⟩⟩

end Sys2Proof.Machine
end

section
/-! SUPPORT and the statements O1 to O4. The parts of the window in offsets, the legal accesses, the bytes a read returns, and what a
write of the window does. -/

namespace Sys2Proof.Machine

/-! ### The parts of the window in offsets (R16, R42) -/

/-- The offsets of each part of the window. -/
def Area.Covers : Area → Nat → Prop
  | .registers, off => off < 0x100
  | .paramBuf, off => 0x100 ≤ off ∧ off < 0x200
  | .txBuf, off => 0x200 ≤ off ∧ off < 0x300
  | .pktBuf, off => 0x300 ≤ off ∧ off < 0x400
  | .rxBuf, off => 0x10000 ≤ off ∧ off < 0x10000 + Config.rxCap
  | .reserved, off => 0x400 ≤ off ∧ off < 0x10000 ∨ 0x10000 + Config.rxCap ≤ off ∧ off < 0x20000
  | .outside, off => 0x20000 ≤ off

theorem areaOf_eq_iff (off : Nat) (a : Area) : areaOf off = a ↔ a.Covers off := by
  have hcap := rxCap_le
  simp only [areaOf, fitsRxCap_iff]
  cases a <;> simp only [Area.Covers] <;> split_ifs <;> simp <;> omega

theorem areaOf_covers (off : Nat) : (areaOf off).Covers off := (areaOf_eq_iff off _).1 rfl

/-- What lies between two bytes of one part, at most a word apart, lies in that part: no gap of a part is that narrow. -/
theorem areaOf_add_of_ends {off j : Nat} (h : areaOf (off + 3) = areaOf off) (hj : j ≤ 3) :
    areaOf (off + j) = areaOf off := by
  have hcap := rxCap_ge
  have hlo := areaOf_covers off
  have hhi := (areaOf_eq_iff _ _).1 h
  rw [areaOf_eq_iff]
  cases ha : areaOf off <;> simp only [ha, Area.Covers] at hlo hhi ⊢ <;> omega

/-- An aligned word outside the register area lies in one part, unless it straddles the end of RX_BUF (R46). -/
theorem areaOf_word_ends_iff {off : Nat} (hlo : 0x100 ≤ off) (hhi : off < 0x20000) (ha : off % 4 = 0) :
    areaOf (off + 3) = areaOf off ↔
      ¬ (0x10000 ≤ off ∧ off < 0x10000 + Config.rxCap ∧ 0x10000 + Config.rxCap < off + 4) := by
  have hcap := rxCap_ge
  have hfirst := areaOf_covers off
  rw [areaOf_eq_iff]
  cases h : areaOf off <;> simp only [h, Area.Covers] at hfirst ⊢ <;> omega

/-! ### The legal accesses (R46) -/

/-- Outside the register area one byte is legal, and an aligned word in one part of the window. -/
theorem legalAccess_elsewhere {off : Nat} (hreg : areaOf off ≠ .registers) (hout : areaOf off ≠ .outside) (n : Nat) :
    legalAccess off n = true ↔ n = 1 ∨ (n = 4 ∧ off % 4 = 0 ∧ areaOf (off + 3) = areaOf off) := by
  cases h : areaOf off <;> simp [legalAccess, h, and_assoc] at hreg hout ⊢

theorem legalAccess_iff (off n : Nat) :
    legalAccess off n = true ↔
      (off < 0x100 ∧ n = 4 ∧ off % 4 = 0) ∨
      (0x100 ≤ off ∧ off < 0x20000 ∧ (n = 1 ∨ (n = 4 ∧ off % 4 = 0 ∧ areaOf (off + 3) = areaOf off))) := by
  by_cases hreg : areaOf off = .registers
  · have hlt : off < 0x100 := (areaOf_eq_iff off _).1 hreg
    simp [legalAccess, hreg, hlt, Nat.not_le.2 hlt]
  by_cases hout : areaOf off = .outside
  · have hge : 0x20000 ≤ off := (areaOf_eq_iff off _).1 hout
    simp [legalAccess, hout, Nat.not_lt.2 hge, show ¬ off < 0x100 by omega]
  · have hlo : 0x100 ≤ off := Nat.not_lt.1 fun h => hreg (areaOf_register h)
    have hhi : off < 0x20000 := Nat.not_le.1 fun h => hout ((areaOf_eq_iff off _).2 h)
    simp [legalAccess_elsewhere hreg hout, hlo, hhi, Nat.not_lt.2 hlo]

/-- A legal access is of one byte or of a word. -/
theorem legalAccess_size {off n : Nat} (h : legalAccess off n = true) : n = 1 ∨ n = 4 := by
  rw [legalAccess_iff] at h
  omega

/-- A legal access lies in one part of the window. -/
theorem areaOf_of_legalAccess {off n j : Nat} (h : legalAccess off n = true) (hj : j < n) :
    areaOf (off + j) = areaOf off := by
  obtain ⟨hreg, rfl, ha⟩ | ⟨-, -, rfl | ⟨rfl, -, hends⟩⟩ := (legalAccess_iff off n).1 h
  · rw [areaOf_register hreg, areaOf_register (by omega)]
  · obtain rfl : j = 0 := by omega
    rfl
  · exact areaOf_add_of_ends hends (by omega)

theorem accessFault_eq (off n : Nat) :
    accessFault off n = if off < 0x20000 then .busError off n else .outsideWindow off := by
  have hout : areaOf off = .outside ↔ ¬ off < 0x20000 := by rw [areaOf_eq_iff, Area.Covers, Nat.not_lt]
  simp only [accessFault, hout, ite_not]

/-- A host access that is not legal stops the step (R47). -/
theorem step_illegal {s : State} {off n : Nat} {v : Word} {rest : List Input} (hl : legalAccess off n = false)
    (h : s.inputs = .read off n :: rest ∨ s.inputs = .write off n v :: rest) :
    step s = .fault (accessFault off n) := by
  obtain h | h := h
  · simp [step_cons s h, perform, hostRead, hl]
  · simp [step_cons s h, perform, hostWrite, hl]

/-- Settles O2: the accesses by `legalAccess_iff`, with a word's two ends in one part by `areaOf_word_ends_iff`, and the fault by
`step_illegal`. -/
theorem illegalAccessesAreBusErrors : Obligations.IllegalAccessesAreBusErrors := by
  unfold Obligations.IllegalAccessesAreBusErrors
  refine fun off n => ⟨?_, fun s v rest hl h => by rw [step_illegal hl h, accessFault_eq]⟩
  rw [legalAccess_iff]
  refine or_congr_right (and_congr_right fun hlo => and_congr_right fun hhi => or_congr_right
    (and_congr_right fun _ => and_congr_right fun ha => ?_))
  exact areaOf_word_ends_iff hlo hhi ha

/-! ### The bytes a read returns (R45, R48) -/

theorem littleEndian_lt (bs : List Byte) : littleEndian bs < 256 ^ bs.length := by
  induction bs with
  | nil => simp [littleEndian]
  | cons b bs ih =>
    have hb := b.isLt
    simp only [littleEndian, List.length_cons, pow_succ]
    omega

/-- R45: byte `j` of a little-endian number. -/
theorem littleEndian_digit (bs : List Byte) (j : Nat) : littleEndian bs / 256 ^ j % 256 = (bs.getD j 0).toNat := by
  induction bs generalizing j with
  | nil => simp [littleEndian]
  | cons b bs ih =>
    have hb := b.isLt
    cases j with
    | zero =>
      simp only [littleEndian, pow_zero, Nat.div_one, List.getD_cons_zero]
      omega
    | succ j =>
      have hdrop : (b.toNat + 256 * littleEndian bs) / 256 = littleEndian bs := by omega
      rw [littleEndian, pow_succ', ← Nat.div_div_eq_div_mul, hdrop, ih, List.getD_cons_succ]

theorem littleEndian_replicate_zero (n : Nat) : littleEndian (List.replicate n 0) = 0 := by
  induction n with
  | zero => rfl
  | succ n ih => rw [List.replicate_succ, littleEndian, ih]; rfl

/-- R48: a read of at most a word returns the bytes it covers, the lowest first, and 0 above them. -/
theorem memRead_extractByte (s : State) (off : Nat) {n : Nat} (hn : n ≤ 4) (j : Nat) :
    (memRead s off n).extractLsb' (8 * j) 8 = if j < n then byteAt s (off + j) else 0 := by
  have hlt : littleEndian ((List.range n).map fun j => byteAt s (off + j)) < 2 ^ 32 :=
    calc _ < 256 ^ n := by simpa using littleEndian_lt ((List.range n).map fun j => byteAt s (off + j))
      _ ≤ 256 ^ 4 := Nat.pow_le_pow_right (by decide) hn
  have hbyte : ((List.range n).map fun j => byteAt s (off + j)).getD j 0 = if j < n then byteAt s (off + j) else 0 := by
    split_ifs with hj <;> simp [hj]
  refine BitVec.eq_of_toNat_eq ?_
  rw [BitVec.extractLsb'_toNat, memRead, BitVec.toNat_ofNat, Nat.mod_eq_of_lt hlt, Nat.shiftRight_eq_div_pow, pow_mul,
    ← hbyte]
  exact littleEndian_digit _ j

/-- R48: a word read returns the word whose bytes it covers. -/
theorem memRead_word {s : State} {off : Nat} {v : Word}
    (h : ∀ j, j < 4 → byteAt s (off + j) = v.extractLsb' (8 * j) 8) : memRead s off 4 = v := by
  have hbytes : (List.range 4).map (fun j => byteAt s (off + j)) = (List.range 4).map (fun j => v.extractLsb' (8 * j) 8) :=
    List.map_congr_left fun j hj => h j (List.mem_range.1 hj)
  rw [memRead, hbytes, ofNat_littleEndian_word]

/-- R48: a byte read returns the byte. -/
theorem memRead_byte (s : State) (off : Nat) : memRead s off 1 = (byteAt s off).zeroExtend 32 := by
  simp [memRead, littleEndian, List.range_succ, BitVec.truncate_eq_setWidth, BitVec.ofNat_toNat]

/-- R48: a byte of a buffer is read as its content. -/
theorem byteAt_of_inBuffer {off : Nat} (h : inBuffer off = true) (s : State) : byteAt s off = byteOf s off := by
  cases ha : areaOf off <;> simp [inBuffer, byteAt, ha] at h ⊢

/-- A legal access that starts in a buffer lies in buffers. -/
theorem inBuffer_of_legalAccess {off n j : Nat} (h : legalAccess off n = true) (hb : inBuffer off = true) (hj : j < n) :
    inBuffer (off + j) = true := by
  rwa [inBuffer, areaOf_of_legalAccess h hj]

/-- R48: a legal read of a reserved area returns 0. -/
theorem memRead_reserved {off n : Nat} (h : legalAccess off n = true) (ha : areaOf off = .reserved) (s : State) :
    memRead s off n = 0 := by
  have hbytes : (List.range n).map (fun j => byteAt s (off + j)) = List.replicate n 0 := by
    refine List.eq_replicate_iff.2 ⟨by simp, fun b hb => ?_⟩
    obtain ⟨j, hj, rfl⟩ := List.mem_map.1 hb
    simp only [byteAt, areaOf_of_legalAccess h (List.mem_range.1 hj), ha]
  rw [memRead, hbytes, littleEndian_replicate_zero]
  rfl

/-- Settles O1: the bytes of a buffer by `memRead_extractByte` and a reserved area by `memRead_reserved`. -/
theorem hostReadHasNoSideEffect : Obligations.HostReadHasNoSideEffect := by
  unfold Obligations.HostReadHasNoSideEffect
  refine fun s off n hl => ⟨fun rest h => ?_, fun hbuf j => ?_, fun hres => memRead_reserved hl ?_ s⟩
  · rw [step_cons s h]
    exact if_pos hl
  · have hb : inBuffer off = true := hbuf.elim (fun h => inBuffer_low h.1 h.2) (fun h => inBuffer_rx h.1 h.2)
    have hn : n ≤ 4 := by
      have := legalAccess_size hl
      omega
    rw [memRead_extractByte s off hn]
    split_ifs with hj
    · exact byteAt_of_inBuffer (inBuffer_of_legalAccess hl hb hj) s
    · rfl
  · have hwin := (legalAccess_iff off n).1 hl
    rw [areaOf_eq_iff, Area.Covers]
    omega

/-! ### What a write does (R49) -/

/-- A legal write at another offset than CMD is one write of the window. -/
theorem step_write {s : State} {off n : Nat} {v : Word} {rest : List Input} (h : s.inputs = .write off n v :: rest)
    (hl : legalAccess off n = true) (hcmd : off ≠ 0x000) : step s = .next (memWrite off n v { s with inputs := rest }) := by
  rw [step_cons s h]
  simp only [perform, hostWrite, hl, if_true, if_neg hcmd]

/-- Settles O4: behind OPA only PARAM_BUF takes a write. -/
theorem readOnlyOffsetsIgnoreWrites : Obligations.ReadOnlyOffsetsIgnoreWrites := by
  unfold Obligations.ReadOnlyOffsetsIgnoreWrites
  intro s off n v rest hl hlo hout h
  have hparam : areaOf off ≠ .paramBuf := by
    rw [Ne, areaOf_paramBuf_iff]
    omega
  rw [step_write h hl (by omega), memWrite, if_neg (by omega), if_neg (by omega), if_neg hparam]

/-- A legal write to PARAM_BUF stores the value's bytes. -/
theorem step_write_paramBuf {s : State} {off n : Nat} {v : Word} {rest : List Input}
    (h : s.inputs = .write off n v :: rest) (hl : legalAccess off n = true) (hlo : 0x100 ≤ off) (hhi : off < 0x200) :
    step s = .next (storeBytes off (valueBytes v n) { s with inputs := rest }) := by
  rw [step_write h hl (by omega), memWrite, if_neg (by omega), if_neg (by omega),
    if_pos ((areaOf_paramBuf_iff off).2 ⟨hlo, hhi⟩)]

/-- The content of a buffer byte after the low bytes of a value were stored, the lowest first (R45). -/
theorem byteOf_storeValue (off a n : Nat) (v : Word) (s : State) :
    byteOf (storeBytes off (valueBytes v n) s) a =
      if off ≤ a ∧ a < off + n then v.extractLsb' (8 * (a - off)) 8 else byteOf s a := by
  simp only [byteOf_storeBytes, valueBytes, List.length_map, List.length_range]
  split_ifs with h
  · have hlt : a - off < n := by omega
    simp [hlt]
  · rfl

/-- R46: one byte of PARAM_BUF is a legal access. -/
theorem legalAccess_paramBuf_byte {off : Nat} (hlo : 0x100 ≤ off) (hhi : off < 0x200) : legalAccess off 1 = true :=
  (legalAccess_iff off 1).2 (.inr ⟨hlo, by omega, .inl rfl⟩)

/-- R46: an aligned word of PARAM_BUF is a legal access. -/
theorem legalAccess_paramBuf_word {off : Nat} (hlo : 0x100 ≤ off) (hhi : off < 0x200) (ha : off % 4 = 0) :
    legalAccess off 4 = true :=
  (legalAccess_iff off 4).2
    (.inr ⟨hlo, by omega, .inr ⟨rfl, ha, (areaOf_word_ends_iff hlo (by omega) ha).2 (by omega)⟩⟩)

/-- Settles O3: the write by `step_write_paramBuf`, and each byte after it by `byteOf_storeValue`. -/
theorem paramBufWritesReadBack : Obligations.ParamBufWritesReadBack := by
  unfold Obligations.ParamBufWritesReadBack
  refine fun s off v rest hlo hhi => ⟨fun ha h => ?_, fun h => ?_⟩
  · have hbyte : ∀ j, j < 4 →
        byteOf (storeBytes off (valueBytes v 4) { s with inputs := rest }) (off + j) = v.extractLsb' (8 * j) 8 := by
      intro j hj
      rw [byteOf_storeValue, if_pos (by omega), Nat.add_sub_cancel_left]
    refine ⟨_, step_write_paramBuf h (legalAccess_paramBuf_word hlo hhi ha) hlo hhi, rfl, memRead_word fun j hj => ?_, hbyte,
      fun a hout => ?_⟩
    · rw [byteAt_of_inBuffer (inBuffer_low (by omega) (by omega)), hbyte j hj]
    · rw [byteOf_storeValue, if_neg (by omega)]
      rfl
  · have hbyte : ∀ a, byteOf (storeBytes off (valueBytes v 1) { s with inputs := rest }) a =
        if a = off then v.extractLsb' 0 8 else byteOf s a := by
      intro a
      rw [byteOf_storeValue]
      by_cases heq : a = off
      · rw [if_pos (by omega), if_pos heq, heq, Nat.sub_self]
      · rw [if_neg (by omega), if_neg heq]
        rfl
    refine ⟨_, step_write_paramBuf h (legalAccess_paramBuf_byte hlo hhi) hlo hhi, rfl, ?_, hbyte⟩
    rw [memRead_byte, byteAt_of_inBuffer (inBuffer_low hlo (by omega)), hbyte, if_pos rfl]

end Sys2Proof.Machine
end

section
/-! SUPPORT and the statements O7 and O15. The launch of a decoded instruction, and the run of the host accesses that a wire
instruction stands for (R72). -/

namespace Sys2Proof.Machine

/-! ### The launch of a command (R126) -/

/-- With no receive active a CMD write of a word that decodes is that instruction. -/
theorem launch_of_decode {s : State} {w : Word} {i : Instr} (ha : s.active = none) (hi : decode (.command w) = .ok i) :
    launch w s = exec i s := by
  simp [launch, ha, hi]

/-- With no receive active a packet that decodes is that instruction (log 3). -/
theorem hostPacket_of_decode {s : State} {f : List Byte} {i : Instr} (ha : s.active = none)
    (hi : decode (.packet f) = .ok i) : hostPacket f s = exec i s := by
  simp [hostPacket, ha, hi]

/-- A CMD write is a launch (R49). -/
theorem step_cmd {s : State} {w : Word} {rest : List Input} (h : s.inputs = .write 0x000 4 w :: rest) :
    step s = launch w { s with inputs := rest } := by
  rw [step_cons s h]
  simp only [perform, hostWrite, legalAccess_register (off := 0x000) (by decide) rfl, if_true]

/-- Settles O7: the two kinds of encoding are issued by a CMD write and by a packet. -/
theorem stepRunsTheDecodedInstruction : Obligations.StepRunsTheDecodedInstruction := by
  unfold Obligations.StepRunsTheDecodedInstruction
  intro s e i rest h ha hi
  cases e with
  | command w => exact (step_cmd h).trans (launch_of_decode ha hi)
  | packet f => exact (step_cons s h).trans (hostPacket_of_decode ha hi)

/-! ### The word of CODEC_ENCODE (R67, R68) -/

theorem commandWord_toNat (op a b c : Byte) :
    (commandWord op a b c).toNat = op.toNat + 2 ^ 8 * a.toNat + 2 ^ 16 * b.toNat + 2 ^ 24 * c.toNat := by
  simp only [commandWord, toNat_append_eq_add]
  omega

/-- A command word is the little-endian number of its OP, A, B and C. -/
theorem commandWord_extractByte (op a b c : Byte) (j : Nat) :
    ((commandWord op a b c).extractLsb' (8 * j) 8).toNat = (littleEndian [op, a, b, c] / 256 ^ j) % 256 := by
  have hword : (commandWord op a b c).toNat = littleEndian [op, a, b, c] := by
    rw [commandWord_toNat]
    simp only [littleEndian]
    omega
  rw [BitVec.extractLsb'_toNat, hword, Nat.shiftRight_eq_div_pow, pow_mul]
  rfl

theorem aField_commandWord (op a b c : Byte) : aField (commandWord op a b c) = a :=
  BitVec.eq_of_toNat_eq ((commandWord_extractByte op a b c 1).trans (littleEndian_digit _ 1))

theorem bField_commandWord (op a b c : Byte) : bField (commandWord op a b c) = b :=
  BitVec.eq_of_toNat_eq ((commandWord_extractByte op a b c 2).trans (littleEndian_digit _ 2))

theorem cField_commandWord (op a b c : Byte) : cField (commandWord op a b c) = c :=
  BitVec.eq_of_toNat_eq ((commandWord_extractByte op a b c 3).trans (littleEndian_digit _ 3))

theorem decode_codecEncode (id instr k : Byte) :
    decode (.command (commandWord 0x01 id instr k)) = .ok (.codecEncode id instr k) := by
  simp [decode, decodeCommand, Laws.WireOrCommand.opField_commandWord, aField_commandWord, bField_commandWord,
    cField_commandWord]

/-! ### The run of a wire instruction's accesses (R72) -/

/-- A run goes on from a step's next state. -/
theorem run_succ_of_next {s t : State} (h : step s = .next t) (n : Nat) :
    Host.Core.run core (n + 1) s = Host.Core.run core n t := by
  have hcore : core.step s = .next t := h
  simp only [Host.Core.run, hcore]

/-- A run of one step is the step. -/
theorem run_one (s : State) : Host.Core.run core 1 s = step s := by
  have hcore : core.step s = step s := rfl
  simp only [Host.Core.run, hcore]
  cases step s <;> rfl

/-- The byte writes `params p_0, p_1, ...` (R72) from place `k` of PARAM_BUF on. -/
def paramWrites (k : Nat) (p : List Byte) : List Input :=
  (p.zipIdx k).map fun bj => .write (0x100 + bj.2) 1 (bj.1.zeroExtend 32)

/-- The low byte of a byte written as a word is the byte. -/
theorem valueBytes_zeroExtend (b : Byte) : valueBytes (b.zeroExtend 32) 1 = [b] := by
  have hlow : (b.zeroExtend 32).extractLsb' 0 8 = b := by
    rw [← BitVec.setWidth_eq_extractLsb' (by decide), BitVec.setWidth_setWidth_of_le _ (by decide), BitVec.setWidth_eq]
  simp only [valueBytes, List.range_succ, List.range_zero, List.nil_append, List.map_cons, List.map_nil, Nat.mul_zero, hlow]

/-- The writes of parameters that fit PARAM_BUF store them one after another. -/
theorem run_paramWrites (p : List Byte) {k : Nat} {s : State} {rest : List Input} (hk : k + p.length ≤ Config.paramBufSize)
    (h : s.inputs = paramWrites k p ++ rest) (n : Nat) :
    Host.Core.run core (p.length + n) s =
      Host.Core.run core n (storeBytes (paramBase + k) p { s with inputs := rest }) := by
  induction p generalizing k s with
  | nil =>
    have hs : storeBytes (paramBase + k) [] { s with inputs := rest } = s := by
      rw [← show s.inputs = rest from h]; rfl
    rw [hs, List.length_nil, Nat.zero_add]
  | cons b p ih =>
    simp only [List.length_cons, Config.paramBufSize] at hk
    have hstep : step s = .next (storeBytes (0x100 + k) [b] { s with inputs := paramWrites (k + 1) p ++ rest }) := by
      rw [← valueBytes_zeroExtend b]
      exact step_write_paramBuf h (legalAccess_paramBuf_byte (by omega) (by omega)) (by omega) (by omega)
    rw [List.length_cons, Nat.add_right_comm, run_succ_of_next hstep]
    exact ih (k := k + 1) (by simp only [Config.paramBufSize]; omega) rfl

/-- A wire instruction is framed with the ID and the INSTR byte of its packet (R57, R74 to R80). -/
theorem exec_of_packet {i : Instr} {f : List Byte} (he : encode i = .packet f) :
    ∃ id instr, f = (buildFrame id instr (wireParams i)).getD [] ∧ ∀ s, exec i s = frameInstr id instr (wireParams i) s := by
  cases i
  case ping | read | write | regwrite | action | syncread | syncwrite =>
    exact ⟨_, _, (Encoding.packet.inj he).symm, fun s => rfl⟩
  all_goals cases he

/-- A wire instruction with an encoding has at most MAX_PARAMS parameters (R60). -/
theorem wireParams_length_of_wellFormed {i : Instr} (h : i.wellFormed = true) : (wireParams i).length ≤ Config.maxParams := by
  cases i
  case syncwrite => exact (by simpa [Instr.wellFormed] using h : _ ∧ _).2
  all_goals simpa [Instr.wellFormed] using h

/-- CODEC_ENCODE after its parameters are stored is the framing of them (R72, R84). -/
theorem exec_codecEncode_storeParams (id instr : Byte) {p : List Byte} (hp : p.length ≤ Config.maxParams) (s : State) :
    exec (.codecEncode id instr (BitVec.ofNat 8 p.length)) (storeBytes paramBase p s) = frameInstr id instr p s := by
  simp only [Config.maxParams] at hp
  have hk : (BitVec.ofNat 8 p.length).toNat = p.length := by
    rw [BitVec.toNat_ofNat]
    omega
  have hparams : paramBytes (storeBytes paramBase p s) (BitVec.ofNat 8 p.length) = p := by
    rw [paramBytes, hk, bytesOf_storeBytes_same]
  have hstore : storeParams p s = storeBytes paramBase p s := by
    rw [storeParams, List.take_of_length_le (by simp only [Config.paramBufSize]; omega)]
  show Host.Outcome.next _ = _
  rw [hparams, frameInstr, hstore]

/-- Settles O15: `run_paramWrites` stores the parameters, and the CMD write after them is `exec_codecEncode_storeParams`. -/
theorem wireInstructionIsItsAccessSequence : Obligations.WireInstructionIsItsAccessSequence := by
  unfold Obligations.WireInstructionIsItsAccessSequence
  intro i f id instr s rest hwf he hid hinstr ha h
  have hp := wireParams_length_of_wellFormed hwf
  obtain ⟨id', instr', rfl, hexec⟩ := exec_of_packet he
  obtain ⟨g, hg⟩ := Option.isSome_iff_exists.1 ((buildFrame_isSome id' instr' (wireParams i)).trans (decide_eq_true hp))
  obtain ⟨-, rfl⟩ := buildFrame_eq_some hg
  obtain rfl : id' = id := by simpa [hg] using hid
  obtain rfl : instr' = instr := by simpa [hg] using hinstr
  simp only [Config.maxParams] at hp
  have hwrites : Host.Core.run core ((wireParams i).length + 1) s =
      step (storeBytes paramBase (wireParams i) { s with inputs := _ :: rest }) :=
    (run_paramWrites (wireParams i) (k := 0) (by simp only [Config.paramBufSize]; omega) h 1).trans (run_one _)
  have hcmd : step (storeBytes paramBase (wireParams i) { s with inputs := _ :: rest }) =
      exec (.codecEncode id' instr' (BitVec.ofNat 8 (wireParams i).length))
        (storeBytes paramBase (wireParams i) { s with inputs := rest }) :=
    (step_cmd rfl).trans (launch_of_decode ha (decode_codecEncode _ _ _))
  exact hwrites.trans (hcmd.trans ((exec_codecEncode_storeParams id' instr' hp _).trans (hexec _).symm))

end Sys2Proof.Machine
end

section
/-! SUPPORT and the statement O60. What can stop a step (R47, R122): no instruction, only the host's own input. -/

namespace Sys2Proof.Machine

/-- Each instruction's meaning ends in a next state, a failed command's with its result code (R122). -/
theorem exec_next (i : Instr) (s : State) : ∃ t, exec i s = .next t := by
  cases i <;> exact ⟨_, rfl⟩

theorem launch_next (w : Word) (s : State) : ∃ t, launch w s = .next t := by
  unfold launch
  split
  · exact ⟨_, rfl⟩
  · split
    · exact exec_next _ s
    · exact ⟨_, rfl⟩

/-- Accesses that R46 does not allow. -/
def IsIllegalAccess (e : Input) : Prop :=
  ∃ off n v, legalAccess off n = false ∧ (e = .read off n ∨ e = .write off n v)

/-- A packet input whose bytes are no wire instruction (log 3). -/
def IsBadPacket (e : Input) : Prop := ∃ f, e = .packet f ∧ ∀ i, decode (.packet f) ≠ .ok i

theorem hostRead_cases (off n : Nat) (s : State) :
    (∃ t, hostRead off n s = .next t) ∨ (legalAccess off n = false ∧ ∃ r, hostRead off n s = .fault r) := by
  unfold hostRead
  split_ifs with hl
  · exact .inl ⟨_, rfl⟩
  · exact .inr ⟨Bool.eq_false_iff.2 hl, _, rfl⟩

theorem hostWrite_cases (off n : Nat) (v : Word) (s : State) :
    (∃ t, hostWrite off n v s = .next t) ∨ (legalAccess off n = false ∧ ∃ r, hostWrite off n v s = .fault r) := by
  unfold hostWrite
  split_ifs with hl
  · exact .inl (launch_next v s)
  · exact .inl ⟨_, rfl⟩
  · exact .inr ⟨Bool.eq_false_iff.2 hl, _, rfl⟩

theorem hostPacket_cases (f : List Byte) (s : State) :
    (∃ t, hostPacket f s = .next t) ∨
      ((∀ i, decode (.packet f) ≠ .ok i) ∧ ∃ r, hostPacket f s = .refused r) := by
  unfold hostPacket
  split
  · split
    · exact .inl ⟨_, rfl⟩
    · exact .inl (exec_next _ s)
  · rename_i herror
    exact .inr ⟨fun i hi => by simp [hi] at herror, _, rfl⟩

/-- All that an input can answer: a next state, the fault of an illegal access, or the refusal of a bad packet. -/
theorem perform_cases (e : Input) (s : State) :
    (∃ t, perform e s = .next t) ∨ (IsIllegalAccess e ∧ ∃ r, perform e s = .fault r) ∨
      (IsBadPacket e ∧ ∃ r, perform e s = .refused r) := by
  cases e with
  | read off n =>
    exact (hostRead_cases off n s).imp_right fun ⟨hl, hfault⟩ => .inl ⟨⟨off, n, 0, hl, .inl rfl⟩, hfault⟩
  | write off n v =>
    exact (hostWrite_cases off n v s).imp_right fun ⟨hl, hfault⟩ => .inl ⟨⟨off, n, v, hl, .inr rfl⟩, hfault⟩
  | packet f => exact (hostPacket_cases f s).imp_right fun ⟨hbad, hrefused⟩ => .inr ⟨⟨f, rfl, hbad⟩, hrefused⟩
  | arrive b => exact .inl ⟨_, rfl⟩
  | deliver => exact .inl ⟨_, rfl⟩
  | readError => exact .inl ⟨_, rfl⟩
  | timeout => exact .inl ⟨_, rfl⟩
  | reset => exact .inl ⟨_, rfl⟩

/-- All that a step can answer; the idle step has a next state. -/
theorem step_cases (s : State) :
    (∃ t, step s = .next t) ∨
      ∃ e rest, s.inputs = e :: rest ∧
        ((IsIllegalAccess e ∧ ∃ r, step s = .fault r) ∨ (IsBadPacket e ∧ ∃ r, step s = .refused r)) := by
  cases h : s.inputs with
  | nil => exact .inl ⟨receiveTimeout s, by simp only [step, takeInput, h, idleStep]⟩
  | cons e rest =>
    rw [step_cons s h]
    exact (perform_cases e { s with inputs := rest }).imp_right fun hstop => ⟨e, rest, rfl, hstop⟩

/-- Settles O60: every instruction by `exec_next`, every step by `step_cases`. -/
theorem onlyTheHostStopsTheMachine : Obligations.OnlyTheHostStopsTheMachine := by
  unfold Obligations.OnlyTheHostStopsTheMachine
  refine fun s => ⟨fun i => exec_next i s, fun r h => ?_, fun r h => ?_⟩
  · obtain ⟨t, ht⟩ | ⟨e, rest, hinputs, ⟨⟨off, n, v, hl, he⟩, -⟩ | ⟨-, r', hr⟩⟩ := step_cases s
    · simp [h] at ht
    · exact ⟨off, n, v, rest, hl, by rw [hinputs]; exact he.imp (congrArg (· :: rest)) (congrArg (· :: rest))⟩
    · simp [h] at hr
  · obtain ⟨t, ht⟩ | ⟨e, rest, hinputs, ⟨-, r', hr⟩ | ⟨⟨f, rfl, hbad⟩, -⟩⟩ := step_cases s
    · simp [h] at ht
    · simp [h] at hr
    · exact ⟨f, rest, hinputs, hbad⟩

end Sys2Proof.Machine
end

section
/-! SUPPORT and the statements O9 and O12. The command word by its four fields (R67): which of its bits a command uses (R68),
and that decoding and encoding say the same of a word. -/

namespace Sys2Proof.Machine

/-! ### The fields of a word (R67) -/

theorem opField_toNat (w : Word) : (opField w).toNat = w.toNat % 256 := by
  simp [opField, BitVec.extractLsb'_toNat]

/-- A word is put together from its fields. -/
theorem commandWord_fields (w : Word) : commandWord (opField w) (aField w) (bField w) (cField w) = w := by
  apply BitVec.eq_of_toNat_eq
  have hw := w.isLt
  simp only [commandWord_toNat, opField, aField, bField, cField, BitVec.extractLsb'_toNat, Nat.shiftRight_eq_div_pow]
  omega

/-- The mask of a whole field. -/
theorem byte_and_ones (x : Byte) : x &&& 255#8 = x := BitVec.and_allOnes

/-- Words are equal where their fields are. -/
theorem commandWord_eq_iff (w : Word) (op a b c : Byte) :
    commandWord op a b c = w ↔ opField w = op ∧ aField w = a ∧ bField w = b ∧ cField w = c := by
  constructor
  · rintro rfl
    exact ⟨Laws.WireOrCommand.opField_commandWord .., aField_commandWord .., bField_commandWord .., cField_commandWord ..⟩
  · rintro ⟨rfl, rfl, rfl, rfl⟩
    exact commandWord_fields w

theorem commandWord_and (op a b c mop ma mb mc : Byte) :
    commandWord op a b c &&& commandWord mop ma mb mc = commandWord (op &&& mop) (a &&& ma) (b &&& mb) (c &&& mc) := by
  have happend : (c ++ b ++ a ++ op : BitVec (8 + 8 + 8 + 8)) &&& (mc ++ mb ++ ma ++ mop) =
      (c &&& mc) ++ (b &&& mb) ++ (a &&& ma) ++ (op &&& mop) := by simp only [BitVec.and_append]
  exact happend

/-- Masking a word masks its fields. -/
theorem commandWord_eq_and_iff (w : Word) (op a b c ma mb mc : Byte) :
    commandWord op a b c = w &&& commandWord 255#8 ma mb mc ↔
      (opField w).toNat = op.toNat ∧ aField w &&& ma = a ∧ bField w &&& mb = b ∧ cField w &&& mc = c := by
  have hmask : w &&& commandWord 255#8 ma mb mc =
      commandWord (opField w) (aField w &&& ma) (bField w &&& mb) (cField w &&& mc) := by
    conv_lhs => rw [← commandWord_fields w]
    rw [commandWord_and, byte_and_ones]
  rw [hmask, commandWord_eq_iff, BitVec.toNat_inj]
  simp only [Laws.WireOrCommand.opField_commandWord, aField_commandWord, bField_commandWord, cField_commandWord]

/-! ### The forms of a field: a byte, a flag, an endian mode, a sign-bit index -/

theorem flagOf_eq (x : Byte) : flagOf x = decide (x.toNat % 2 = 1) := by
  simp [flagOf, BitVec.getLsbD, Nat.testBit_zero]

theorem endianOf_eq (x : Byte) : endianOf x = if x.toNat % 2 = 1 then .big else .small := by
  simp only [endianOf, flagOf_eq, decide_eq_true_eq]

theorem signIndexOf_eq (x : Byte) : signIndexOf x = BitVec.ofNat 4 (x.toNat % 16) :=
  BitVec.eq_of_toNat_eq (by simp [signIndexOf])

theorem signIndexByte_toNat (s : BitVec 4) : (signIndexByte s).toNat = s.toNat :=
  (toNat_append_eq_add 0#4 s).trans (by simp)

theorem flagOf_flagByte (f : Bool) : flagOf (flagByte f) = f := by cases f <;> rfl

theorem endianOf_endianByte (e : Endian) : endianOf (endianByte e) = e := by cases e <;> rfl

theorem signIndexOf_signIndexByte (s : BitVec 4) : signIndexOf (signIndexByte s) = s := by
  have hs : s.toNat % 16 = s.toNat := Nat.mod_eq_of_lt s.isLt
  rw [signIndexOf_eq, signIndexByte_toNat, hs, BitVec.ofNat_toNat, BitVec.setWidth_eq]

theorem and_one_eq_flagByte_iff (x : Byte) (f : Bool) : x &&& 1#8 = flagByte f ↔ flagOf x = f := by
  have hbit : (x &&& 1#8).toNat = x.toNat % 2 := Nat.and_two_pow_sub_one_eq_mod x.toNat 1
  rw [← BitVec.toNat_inj, hbit, flagOf_eq]
  cases f <;> simp [flagByte]

theorem and_one_eq_endianByte_iff (x : Byte) (e : Endian) : x &&& 1#8 = endianByte e ↔ endianOf x = e := by
  cases e with
  | small => exact (and_one_eq_flagByte_iff x false).trans (by simp [endianOf])
  | big => exact (and_one_eq_flagByte_iff x true).trans (by simp [endianOf])

theorem and_nibble_eq_signIndexByte_iff (x : Byte) (s : BitVec 4) : x &&& 15#8 = signIndexByte s ↔ signIndexOf x = s := by
  have hnibble : (x &&& 15#8).toNat = x.toNat % 16 := Nat.and_two_pow_sub_one_eq_mod x.toNat 4
  rw [← BitVec.toNat_inj, ← BitVec.toNat_inj, hnibble, signIndexByte_toNat, signIndexOf_eq]
  simp

/-! ### The words of an instruction (R67, R68) -/

/-- The bits of a command word that its command uses: OP, and of A, B and C the operands' (R67, R68). The last row is the
commands without operands; a wire instruction has no command word. -/
def usedBits : Instr → Word
  | .codecEncode _ _ _ | .gsrIsAvailable _ _ _ => commandWord 0xFF 0xFF 0xFF 0xFF
  | .codecReceive _ _ _ | .codecScan _ _ _ => commandWord 0xFF 0xFF 0x01 0xFF
  | .wordMake _ _ _ => commandWord 0xFF 0xFF 0xFF 0x01
  | .gswAdd _ _ | .gswChange _ _ => commandWord 0xFF 0xFF 0x00 0xFF
  | .gswInit _ _ | .gsrInit _ _ => commandWord 0xFF 0x00 0xFF 0xFF
  | .gsrGetValue _ _ => commandWord 0xFF 0xFF 0xFF 0x00
  | .gswRemove _ | .gsrAdd _ | .gsrRemove _ | .gsrIdResult _ => commandWord 0xFF 0xFF 0x00 0x00
  | .codecTransmit _ => commandWord 0xFF 0x01 0x00 0x00
  | .signToHost _ | .signToDevice _ => commandWord 0xFF 0x00 0x0F 0x00
  | .wordLobyte _ | .wordHibyte _ => commandWord 0xFF 0x00 0x00 0x01
  | .codecChecksum _ => commandWord 0xFF 0x00 0x00 0xFF
  | _ => commandWord 0xFF 0x00 0x00 0x00

/-- Every command uses all of OP (R67). -/
theorem usedBits_and_op (i : Instr) : usedBits i &&& 0xFF = 0xFF := by
  have hmask : ∀ a b c : Byte, commandWord 0xFF a b c &&& 0xFF = 0xFF := fun a b c =>
    (commandWord_and 0xFF a b c 0xFF 0#8 0#8 0#8).trans (by rw [BitVec.and_zero, BitVec.and_zero, BitVec.and_zero]; rfl)
  cases i <;> exact hmask _ _ _

/-- A word decodes to an instruction exactly when it agrees with the instruction's encoding in the bits its command uses. -/
theorem decode_command_iff (w : Word) (i : Instr) :
    decode (.command w) = .ok i ↔ encode i = .command (w &&& usedBits i) := by
  constructor
  · intro h
    simp only [decode, decodeCommand] at h
    split at h
    all_goals cases h
    all_goals
      rename_i hop
      simp [encode, usedBits, commandWord_eq_and_iff, byte_and_ones, and_one_eq_flagByte_iff, and_one_eq_endianByte_iff,
        and_nibble_eq_signIndexByte_iff, hop]
  · intro h
    cases i
    case ping | read | write | regwrite | action | syncread | syncwrite => cases h
    all_goals
      simp only [encode, usedBits, Encoding.command.injEq, BitVec.ofNat_eq_ofNat, commandWord_eq_and_iff, byte_and_ones,
        and_one_eq_flagByte_iff, and_one_eq_endianByte_iff, and_nibble_eq_signIndexByte_iff, BitVec.toNat_ofNat] at h
      simp [decode, decodeCommand, h]

/-- Settles O12: the mask is the bits that the word's command uses. -/
theorem commandWordDecodesByItsFields : Obligations.CommandWordDecodesByItsFields := by
  unfold Obligations.CommandWordDecodesByItsFields
  intro w i h
  have henc := (decode_command_iff w i).1 h
  exact ⟨usedBits i, henc, usedBits_and_op i, fun v hv => (decode_command_iff v i).2 (hv ▸ henc)⟩

/-- Exactly the OPs of R68's table are decoded. -/
theorem exists_decode_command_iff (w : Word) :
    (∃ i, decode (.command w) = .ok i) ↔
      (1 ≤ w.toNat % 256 ∧ w.toNat % 256 ≤ 5) ∨ (0x10 ≤ w.toNat % 256 ∧ w.toNat % 256 ≤ 0x14) ∨
        (0x20 ≤ w.toNat % 256 ∧ w.toNat % 256 ≤ 0x25) ∨ (0x30 ≤ w.toNat % 256 ∧ w.toNat % 256 ≤ 0x38) := by
  rw [← opField_toNat]
  simp only [decode, decodeCommand]
  split
  case h_26 =>
    simp only [reduceCtorEq, exists_false, false_iff, imp_false] at *
    omega
  all_goals exact ⟨fun _ => by omega, fun _ => ⟨_, rfl⟩⟩

/-- With no receive active a CMD write of a word that does not decode changes RESULT alone (R69). -/
theorem launch_of_reserved {s : State} {w : Word} (ha : s.active = none) (hw : ∀ i, decode (.command w) ≠ .ok i) :
    launch w s = .next { s with code := .badCommand } := by
  unfold launch
  rw [ha]
  cases h : decode (.command w) with
  | ok i => exact absurd h (hw i)
  | error r => simp [finish]

/-- Settles O9: the OPs by `exists_decode_command_iff`, the step of a reserved one by `launch_of_reserved`. -/
theorem reservedOpsGiveBadCommand : Obligations.ReservedOpsGiveBadCommand := by
  unfold Obligations.ReservedOpsGiveBadCommand
  intro w
  refine ⟨(exists_decode_command_iff w).symm, fun hop s rest ha h => (step_cmd h).trans (launch_of_reserved ha ?_)⟩
  exact fun i hi => hop ((exists_decode_command_iff w).1 ⟨i, hi⟩)

end Sys2Proof.Machine
end

section
/-! SUPPORT and the statements O10, O11 and O17. Instruction packets: a frame is valid exactly in the shape of R57 with its LEN
and checksum, the parameters of each wire instruction decode to it (R64), and no byte of a valid frame can change alone. -/

namespace Sys2Proof.Machine

/-! ### Valid frames (R57, R61, R83) -/

/-- A valid frame is two header bytes, ID, LEN, one byte and more that LEN counts, and their checksum (R57, R83). -/
theorem validFrame_iff (f : List Byte) :
    validFrame f = true ↔ ∃ id len instr p,
      f = Config.headerByte :: Config.headerByte :: id :: len :: instr :: (p ++ [checksum (id :: len :: instr :: p)]) ∧
        len.toNat = p.length + 2 := by
  constructor
  · intro h
    rcases f with _ | ⟨h0, _ | ⟨h1, _ | ⟨id, _ | ⟨len, rest⟩⟩⟩⟩
    case cons.cons.cons.cons =>
      simp only [validFrame, Bool.and_eq_true, decide_eq_true_eq, beq_iff_eq, List.length_cons] at h
      obtain ⟨⟨⟨⟨hsize, rfl⟩, rfl⟩, hlen⟩, hlast⟩ := h
      obtain ⟨body, hrest⟩ := List.getLast?_eq_some_iff.1 hlast
      have hbody : rest.dropLast = body := by rw [hrest, List.dropLast_concat]
      rw [hbody] at hrest
      cases body with
      | nil => simp only [hrest, List.nil_append, List.length_singleton] at hsize; omega
      | cons instr p =>
        refine ⟨id, len, instr, p, by rw [hrest]; rfl, ?_⟩
        simp only [hrest, List.length_append, List.length_cons, List.length_nil] at hlen
        omega
    all_goals cases h
  · rintro ⟨id, len, instr, p, rfl, hlen⟩
    rw [← List.cons_append]
    simp only [validFrame, List.getLast?_concat, List.dropLast_concat]
    simp [hlen]

/-- Parameters that fit have a frame (R60). -/
theorem exists_buildFrame (id instr : Byte) {p : List Byte} (hp : p.length ≤ Config.maxParams) :
    ∃ f, buildFrame id instr p = some f :=
  Option.isSome_iff_exists.1 ((buildFrame_isSome id instr p).trans (decide_eq_true hp))

/-- What the frame builder makes is a valid frame (R73, R83). -/
theorem validFrame_of_buildFrame {id instr : Byte} {p f : List Byte} (h : buildFrame id instr p = some f) :
    validFrame f = true := by
  obtain ⟨hp, rfl⟩ := buildFrame_eq_some h
  simp only [Config.maxParams] at hp
  exact (validFrame_iff _).2 ⟨id, _, instr, p, rfl, by rw [BitVec.toNat_ofNat]; omega⟩

/-- The frame builder makes every valid frame that is not too long (R60, R73). -/
theorem buildFrame_of_validFrame {f : List Byte} (h : validFrame f = true) (hf : f.length ≤ Config.maxFrame) :
    ∃ id instr p, buildFrame id instr p = some f := by
  obtain ⟨id, len, instr, p, rfl, hlen⟩ := (validFrame_iff f).1 h
  have hlen' : BitVec.ofNat 8 (p.length + 2) = len := by rw [← hlen]; simp
  simp only [Config.maxFrame, List.length_cons, List.length_append, List.length_nil] at hf
  refine ⟨id, instr, p, ?_⟩
  rw [buildFrame, if_neg (by simp only [Config.maxFrame]; omega), hlen']
  simp

/-- The bytes of a frame after its header, checksum and all, sum to 255 modulo 256 (R61). -/
theorem checksum_toNat_add_sum (b : List Byte) : ((checksum b).toNat + (b.map BitVec.toNat).sum) % 256 = 255 := by
  simp only [checksum, BitVec.toNat_ofNat]
  omega

/-- All bytes of a valid frame sum to 253 modulo 256: the header's two add 510. -/
theorem sum_of_validFrame {f : List Byte} (h : validFrame f = true) : (f.map BitVec.toNat).sum % 256 = 253 := by
  obtain ⟨id, len, instr, p, rfl, -⟩ := (validFrame_iff f).1 h
  have hsum := checksum_toNat_add_sum (id :: len :: instr :: p)
  have hheader : Config.headerByte.toNat = 255 := rfl
  simp only [List.map_cons, List.map_append, List.map_nil, List.sum_cons, List.sum_append, List.sum_nil, hheader] at hsum ⊢
  omega

/-- Replacing one byte changes the sum by the difference of the two. -/
theorem sum_set_add {f : List Byte} {j : Nat} (v : Byte) (hj : j < f.length) :
    ((f.set j v).map BitVec.toNat).sum + f[j].toNat = (f.map BitVec.toNat).sum + v.toNat := by
  induction f generalizing j with
  | nil => exact absurd hj (Nat.not_lt_zero j)
  | cons b f ih =>
    cases j with
    | zero =>
      simp only [List.set_cons_zero, List.map_cons, List.sum_cons, List.getElem_cons_zero]
      omega
    | succ j =>
      have hrest := ih (j := j) (Nat.lt_of_succ_lt_succ hj)
      simp only [List.set_cons_succ, List.map_cons, List.sum_cons, List.getElem_cons_succ]
      omega

/-- Settles O17: two valid frames have the same sum modulo 256, and one byte's change alters it. -/
theorem singleByteChangeInvalidates : Obligations.SingleByteChangeInvalidates := by
  unfold Obligations.SingleByteChangeInvalidates
  intro f j v hvalid hj hne
  by_contra hset
  have hsum := sum_of_validFrame hvalid
  have hsum' := sum_of_validFrame (Bool.eq_true_of_not_eq_false hset)
  have hadd := sum_set_add v hj
  have hold := f[j].isLt
  have hnew := v.isLt
  exact hne (by rw [List.getElem?_eq_getElem hj, BitVec.eq_of_toNat_eq (x := f[j]) (y := v) (by omega)])

/-! ### The layouts of the seven wire instructions (R64) -/

/-- A packet that is not too long decodes by its fields. -/
theorem decode_of_buildFrame {id instr : Byte} {p f : List Byte} (h : buildFrame id instr p = some f) :
    decode (.packet f) = decodeFields id instr p := by
  have hvalid := validFrame_of_buildFrame h
  have hlength := buildFrame_length h
  obtain ⟨hp, rfl⟩ := buildFrame_eq_some h
  simp only [Config.maxParams] at hp
  rw [decode, decodePacket, if_neg (by rw [hvalid]; decide), if_neg (by rw [hlength]; simp only [Config.maxFrame]; omega)]
  simp only [List.dropLast_concat]

/-- What decodes is a built frame, and decodes by its fields. -/
theorem buildFrame_of_decode {f : List Byte} {i : Instr} (h : decode (.packet f) = .ok i) :
    ∃ id instr p, buildFrame id instr p = some f ∧ decodeFields id instr p = .ok i := by
  have hdecode := h
  simp only [decode, decodePacket] at hdecode
  split_ifs at hdecode with hinvalid hlong
  obtain ⟨id, instr, p, hbuild⟩ :=
    buildFrame_of_validFrame (Bool.eq_true_of_not_eq_false hinvalid) (Nat.le_of_not_lt hlong)
  exact ⟨id, instr, p, hbuild, (decode_of_buildFrame hbuild).symm.trans h⟩

/-- Records of `len` payload bytes each are found again in their bytes (R64). -/
theorem splitRecords_flatMap {len : Nat} (rs : List (Byte × List Byte)) (hrs : ∀ r ∈ rs, r.2.length = len) {n : Nat}
    (hn : rs.length ≤ n) : splitRecords len n (rs.flatMap fun r => r.1 :: r.2) = some rs := by
  induction rs generalizing n with
  | nil => cases n <;> rfl
  | cons r rs ih =>
    obtain ⟨n, rfl⟩ : ∃ m, n = m + 1 := ⟨n - 1, by simp only [List.length_cons] at hn; omega⟩
    obtain rfl := hrs r List.mem_cons_self
    have htail := ih (fun q hq => hrs q (List.mem_cons_of_mem _ hq)) (Nat.le_of_succ_le_succ hn)
    simp [splitRecords, htail]

/-- Bytes that divide into records are those records' bytes (R64). -/
theorem flatMap_of_splitRecords {len n : Nat} {bs : List Byte} {rs : List (Byte × List Byte)}
    (h : splitRecords len n bs = some rs) :
    rs.flatMap (fun r => r.1 :: r.2) = bs ∧ ∀ r ∈ rs, r.2.length = len := by
  induction n generalizing bs rs with
  | zero =>
    cases bs with
    | nil => cases h; simp
    | cons b bs => cases h
  | succ n ih =>
    cases bs with
    | nil => cases h; simp
    | cons id bs =>
      simp only [splitRecords] at h
      split at h
      · cases h
      · rename_i hlen
        obtain ⟨tail, htail, rfl⟩ := Option.map_eq_some_iff.1 h
        obtain ⟨hbytes, hall⟩ := ih htail
        refine ⟨by simp [hbytes], List.forall_mem_cons.2 ⟨?_, hall⟩⟩
        rw [List.length_take]
        omega

theorem wellFormed_syncwrite (start len : Byte) (rs : List (Byte × List Byte)) :
    (Instr.syncwrite start len rs).wellFormed = true ↔
      (∀ r ∈ rs, r.2.length = len.toNat) ∧ (wireParams (.syncwrite start len rs)).length ≤ Config.maxParams := by
  simp only [Instr.wellFormed, Bool.and_eq_true, List.all_eq_true, beq_iff_eq, decide_eq_true_eq]

/-- SYNCWRITE's parameters decode to it where every payload is of its length (R64, R80). -/
theorem decodeFields_syncwrite (start len : Byte) {rs : List (Byte × List Byte)}
    (hrs : ∀ r ∈ rs, r.2.length = len.toNat) :
    decodeFields Config.broadcastId 0x83 (wireParams (.syncwrite start len rs)) = .ok (.syncwrite start len rs) := by
  have hsplit := splitRecords_flatMap rs hrs (n := (rs.flatMap fun r => r.1 :: r.2).length) (by simp)
  unfold decodeFields wireParams
  show (if _ then _ else _ : Except DecodeError Instr) = _
  rw [if_pos rfl, hsplit]

/-- A packet of parameters that fit decodes by its fields. -/
theorem decode_packetOf (id instr : Byte) {p : List Byte} (hp : p.length ≤ Config.maxParams) :
    decode (packetOf id instr p) = decodeFields id instr p := by
  obtain ⟨f, hf⟩ := exists_buildFrame id instr hp
  rw [packetOf, hf]
  exact decode_of_buildFrame hf

/-- Settles O10: a wire instruction by the layout of its parameters, a command by the fields of its word. -/
theorem decodeOfEncode : Obligations.DecodeOfEncode := by
  unfold Obligations.DecodeOfEncode
  intro i hwf
  have hp := wireParams_length_of_wellFormed hwf
  cases i
  case ping | read | write | regwrite | action | syncread => exact (decode_packetOf _ _ hp).trans rfl
  case syncwrite start len rs =>
    exact (decode_packetOf _ _ hp).trans (decodeFields_syncwrite start len ((wellFormed_syncwrite start len rs).1 hwf).1)
  all_goals
    simp [encode, decode, decodeCommand, Laws.WireOrCommand.opField_commandWord, aField_commandWord, bField_commandWord,
      cField_commandWord, flagOf_flagByte, endianOf_endianByte, signIndexOf_signIndexByte]

/-- Parameters that fit and decode to an instruction are its own, and its packet is theirs (R64). -/
theorem encode_of_decodeFields {id instr : Byte} {p : List Byte} {i : Instr} (hp : p.length ≤ Config.maxParams)
    (h : decodeFields id instr p = .ok i) : i.wellFormed = true ∧ encode i = packetOf id instr p := by
  have hrow : ∀ {n : Nat} {j : Instr}, (.ok j : Except DecodeError Instr) = .ok i → instr.toNat = n →
      j.wellFormed = true → encode j = packetOf id (BitVec.ofNat 8 n) p →
      i.wellFormed = true ∧ encode i = packetOf id instr p := fun hok hn hwf henc => by
    obtain rfl := Except.ok.inj hok
    exact ⟨hwf, by rw [henc, ← hn]; simp⟩
  have hfits := decide_eq_true hp
  unfold decodeFields at h
  split at h
  case h_1 | h_2 | h_3 | h_4 | h_5 => exact hrow h ‹_› hfits rfl
  case h_6 =>
    split at h
    · subst id
      exact hrow h ‹_› hfits rfl
    · cases h
  case h_7 start len records hinstr =>
    split at h
    · subst id
      split at h
      · rename_i rs hsplit
        obtain ⟨rfl, hrs⟩ := flatMap_of_splitRecords hsplit
        exact hrow h hinstr ((wellFormed_syncwrite start len rs).2 ⟨hrs, hp⟩) rfl
      · cases h
    · cases h
  case h_8 => split at h <;> cases h

/-- Settles O11: what decodes is a built frame of the instruction's parameters. -/
theorem packetEncodingIsUnique : Obligations.PacketEncodingIsUnique := by
  unfold Obligations.PacketEncodingIsUnique
  intro f i h
  obtain ⟨id, instr, p, hbuild, hfields⟩ := buildFrame_of_decode h
  obtain ⟨hwf, henc⟩ := encode_of_decodeFields (buildFrame_eq_some hbuild).1 hfields
  exact ⟨hwf, by rw [henc, packetOf, hbuild]; rfl⟩

end Sys2Proof.Machine
end

section
/-! SUPPORT and the statement O14. What the framing of a wire instruction leaves in PARAM_BUF, TX_BUF and the registers. -/

namespace Sys2Proof.Machine

/-- A wire instruction is encoded as a packet (R64). -/
theorem encode_packet_of_wireOpcode {i : Instr} (h : wireOpcode i ≠ none) : ∃ f, encode i = .packet f := by
  cases i
  case ping | read | write | regwrite | action | syncread | syncwrite => exact ⟨_, rfl⟩
  all_goals exact absurd rfl h

/-- Ranges of buffer bytes are equal where each of their bytes is. -/
theorem bytesOf_congr {s t : State} {off n : Nat} (h : ∀ a, off ≤ a → a < off + n → byteOf t a = byteOf s a) :
    bytesOf t off n = bytesOf s off n :=
  List.map_congr_left fun j hj => h _ (Nat.le_add_right off j) (Nat.add_lt_add_left (List.mem_range.1 hj) off)

/-- The framing of parameters that fit (R72, R84): they stand in PARAM_BUF and their frame in TX_BUF. -/
theorem frameInstr_of_buildFrame {id instr : Byte} {p f : List Byte} (h : buildFrame id instr p = some f) (s : State) :
    frameInstr id instr p s = .next (finish .success (loadFrame f (storeBytes paramBase p s))) := by
  obtain ⟨hp, -⟩ := buildFrame_eq_some h
  have htake : p.take Config.paramBufSize = p :=
    List.take_of_length_le (by simp only [Config.maxParams, Config.paramBufSize] at hp ⊢; omega)
  rw [frameInstr, encodeFrame, h, storeParams, htake]

/-- Settles O14: the next state is `frameInstr_of_buildFrame`'s; the frame in TX_BUF stays clear of the parameters. -/
theorem wireInstructionsBuildTheirFrames : Obligations.WireInstructionsBuildTheirFrames := by
  unfold Obligations.WireInstructionsBuildTheirFrames
  intro i s hwire hwf
  obtain ⟨g, henc⟩ := encode_packet_of_wireOpcode hwire
  obtain ⟨id, instr, rfl, hexec⟩ := exec_of_packet henc
  have hp := wireParams_length_of_wellFormed hwf
  obtain ⟨f, hf⟩ := exists_buildFrame id instr hp
  have hlength := buildFrame_length hf
  simp only [Config.maxParams] at hp
  have htxLen : (BitVec.ofNat 8 f.length).toNat = (wireParams i).length + 6 := by
    rw [BitVec.toNat_ofNat]
    omega
  have hframe : ∀ a, a < 0x200 ∨ 0x200 + f.length ≤ a →
      byteOf (loadFrame f (storeBytes paramBase (wireParams i) s)) a = byteOf (storeBytes paramBase (wireParams i) s) a :=
    byteOf_loadFrame f _
  refine ⟨_, (hexec s).trans (frameInstr_of_buildFrame hf s), ?_, rfl, htxLen, ?_, fun a hparam htx => ?_⟩
  · have htx : txFrame (loadFrame f (storeBytes paramBase (wireParams i) s)) = f := txFrame_loadFrame f _ (by omega)
    rw [henc, hf]
    exact congrArg Encoding.packet htx.symm
  · calc bytesOf (loadFrame f (storeBytes paramBase (wireParams i) s)) 0x100 (wireParams i).length
      _ = bytesOf (storeBytes paramBase (wireParams i) s) 0x100 (wireParams i).length :=
        bytesOf_congr fun a _ ha => hframe a (by omega)
      _ = wireParams i := bytesOf_storeBytes_same _ _ s
  · calc byteOf (loadFrame f (storeBytes paramBase (wireParams i) s)) a
      _ = byteOf (storeBytes paramBase (wireParams i) s) a := hframe a (by rw [hlength, ← htxLen]; exact htx)
      _ = byteOf s a := by rw [byteOf_storeBytes, if_neg (by simp only [paramBase]; omega)]

end Sys2Proof.Machine
end

section
/-! SUPPORT and the statement O13. The rows of R68 and of R64, written out. -/

namespace Sys2Proof.Machine

/-- `OP + 2^8 A + 2^16 B + 2^24 C` (R68). -/
theorem ofNat_fields (op a b c : Byte) :
    BitVec.ofNat 32 (op.toNat + 2 ^ 8 * a.toNat + 2 ^ 16 * b.toNat + 2 ^ 24 * c.toNat) = commandWord op a b c := by
  rw [← commandWord_toNat, BitVec.ofNat_toNat, BitVec.setWidth_eq]

/-- The packet of an ID, an INSTR byte and parameters that fit, byte by byte (R57, R61). -/
theorem packetOf_eq (id instr : Byte) {p : List Byte} (hp : p.length ≤ Config.maxParams) :
    packetOf id instr p = .packet ([0xFF, 0xFF, id, BitVec.ofNat 8 (p.length + 2), instr] ++ p ++
      [BitVec.ofNat 8 (255 - (id.toNat + (p.length + 2) + instr.toNat + (p.map BitVec.toNat).sum) % 256)]) := by
  obtain ⟨f, hf⟩ := exists_buildFrame id instr hp
  rw [packetOf, hf, Option.getD_some, (buildFrame_eq_some hf).2]
  simp only [Config.maxParams] at hp
  have hlen : (BitVec.ofNat 8 (p.length + 2)).toNat = p.length + 2 := by rw [BitVec.toNat_ofNat]; omega
  simp only [checksum, List.map_cons, List.sum_cons, hlen, ← Nat.add_assoc]
  rfl

/-- The word of a row of R68, with its fields as numbers, decodes by its fields. -/
theorem decode_row (op a b c : Byte) :
    decode (.command (BitVec.ofNat 32 (op.toNat + 2 ^ 8 * a.toNat + 2 ^ 16 * b.toNat + 2 ^ 24 * c.toNat))) =
      decodeCommand (commandWord op a b c) := by
  rw [ofNat_fields, decode]

/-- The packet of a wire instruction, byte by byte, decodes to it. -/
theorem decode_frame {i : Instr} {id instr : Byte} {p : List Byte} (hwf : i.wellFormed = true)
    (hi : encode i = packetOf id instr p) (hp : p.length ≤ Config.maxParams) :
    decode (.packet ([0xFF, 0xFF, id, BitVec.ofNat 8 (p.length + 2), instr] ++ p ++
      [BitVec.ofNat 8 (255 - (id.toNat + (p.length + 2) + instr.toNat + (p.map BitVec.toNat).sum) % 256)])) = .ok i := by
  rw [← packetOf_eq id instr hp, ← hi]
  exact decodeOfEncode i hwf

/-- Records of `len` payload bytes each take `len + 1` bytes. -/
theorem length_flatten_records {len : Nat} {rs : List (Byte × List Byte)} (hrs : ∀ r ∈ rs, r.2.length = len) :
    (rs.map fun r => r.1 :: r.2).flatten.length = rs.length * (len + 1) := by
  induction rs with
  | nil => simp
  | cons r rs ih =>
    have htail := ih fun q hq => hrs q (List.mem_cons_of_mem _ hq)
    rw [List.map_cons, List.flatten_cons, List.length_append, htail, List.length_cons, List.length_cons,
      hrs r List.mem_cons_self, Nat.succ_mul, Nat.add_comm]

/-- Settles O13: the command rows by their fields, the packets as encodings by `decodeOfEncode`. -/
theorem sampleWordsDecode : Obligations.SampleWordsDecode := by
  unfold Obligations.SampleWordsDecode
  refine ⟨fun a b c => ?_, ⟨?_, ?_, ?_, ?_, ?_, ?_⟩, rfl, rfl, rfl, rfl, rfl, rfl, rfl, rfl⟩
  · have row := fun op => decode_row op a b c
    refine ⟨(row 0x01).trans ?_, (row 0x02).trans ?_, (row 0x03).trans ?_, (row 0x04).trans ?_, (row 0x05).trans ?_,
      (row 0x10).trans ?_, (row 0x11).trans ?_, (row 0x12).trans ?_, (row 0x13).trans ?_, (row 0x14).trans ?_,
      (row 0x20).trans ?_, (row 0x21).trans ?_, (row 0x22).trans ?_, (row 0x23).trans ?_, (row 0x24).trans ?_,
      (row 0x25).trans ?_, (row 0x30).trans ?_, (row 0x31).trans ?_, (row 0x32).trans ?_, (row 0x33).trans ?_,
      (row 0x34).trans ?_, (row 0x35).trans ?_, (row 0x36).trans ?_, (row 0x37).trans ?_, (row 0x38).trans ?_⟩
    all_goals
      simp [decodeCommand, Laws.WireOrCommand.opField_commandWord, aField_commandWord, bField_commandWord,
        cField_commandWord, flagOf_eq, endianOf_eq, signIndexOf_eq]
  · exact fun id => decode_frame (i := .ping id) rfl rfl (by decide)
  · exact fun id address length => decode_frame (i := .read id address length) rfl rfl (show 2 ≤ 244 by decide)
  · intro id address data hdata
    have hp : (address :: data).length ≤ Config.maxParams := Nat.succ_le_succ hdata
    exact ⟨decode_frame (i := .write id address data) (decide_eq_true hp) rfl hp,
      decode_frame (i := .regwrite id address data) (decide_eq_true hp) rfl hp⟩
  · exact fun id => decode_frame (i := .action id) rfl rfl (by decide)
  · intro start len ids hids
    have hp : (start :: len :: ids).length ≤ Config.maxParams := Nat.succ_le_succ (Nat.succ_le_succ hids)
    exact decode_frame (i := .syncread start len ids) (decide_eq_true hp) rfl hp
  · intro start len rs hrs hfits
    have hp : (start :: len :: (rs.map fun r => r.1 :: r.2).flatten).length ≤ Config.maxParams :=
      Nat.succ_le_succ (Nat.succ_le_succ ((length_flatten_records hrs).trans_le hfits))
    have hwf := (wellFormed_syncwrite start len rs).2 ⟨hrs, by simpa only [wireParams, List.flatMap_def] using hp⟩
    exact decode_frame hwf (by rw [encode, wireParams, List.flatMap_def]) hp

end Sys2Proof.Machine
end

section
/-! SUPPORT and the statements O16, O18 and O19. The scanner on built frames: it answers a whole frame with its packet wherever the
frame stands, waits for the rest of one that has begun, and passes over positions at which no candidate starts. -/

namespace Sys2Proof.Machine

section
variable {any : Bool} {x : Byte} {h : Nat}

/-! ### One pass of the loop (R81) -/

theorem scanFrom_of_scanAt {b : List Byte} {r : ScanResult} (hr : scanAt any x h b = some r) : scanFrom any x h b = r := by
  cases b with
  | nil => cases hr
  | cons c bs => simp only [scanFrom, hr]

theorem scanFrom_of_scanAt_none {c : Byte} {bs : List Byte} (hr : scanAt any x h (c :: bs) = none) :
    scanFrom any x h (c :: bs) = scanFrom any x (h + 1) bs := by
  simp only [scanFrom, hr]

/-- Two header bytes before an acceptable ID and a LEN byte are a candidate with a body to check. -/
theorem scanAt_candidate {id len : Byte} (hx : any = true ∨ id = x) (body : List Byte) :
    scanAt any x h (Config.headerByte :: Config.headerByte :: id :: len :: body) = some (scanBody h id len body) := by
  have hid : ¬ (any = false ∧ id ≠ x) := by rcases hx with rfl | rfl <;> simp
  simp only [scanAt, ne_eq, not_true_eq_false, if_false, if_neg hid]

/-- No candidate starts where two header bytes, if they stand there, come before an ID that is not acceptable. -/
theorem scanAt_eq_none {b0 b1 b2 : Byte} (hno : b0 = Config.headerByte → b1 = Config.headerByte → any = false ∧ b2 ≠ x)
    (bs : List Byte) : scanAt any x h (b0 :: b1 :: b2 :: bs) = none := by
  by_cases h0 : b0 = Config.headerByte
  · by_cases h1 : b1 = Config.headerByte
    · simp only [scanAt, if_pos (hno h0 h1), ite_self]
    · simp only [scanAt, if_pos h1, ite_self]
  · simp only [scanAt, if_pos h0]

/-! ### Built frames (R73, R81, R83) -/

/-- LEN counts the parameters and two bytes more; it does not wrap for a frame that is not too long (R59, R60). -/
theorem lenByte_toNat {p : List Byte} (hp : p.length ≤ Config.maxParams) :
    (BitVec.ofNat 8 (p.length + 2) : Byte).toNat = p.length + 2 := by
  simp only [Config.maxParams] at hp
  rw [BitVec.toNat_ofNat]
  omega

/-- The checks on a candidate accept the body of a built frame, whatever follows it. -/
theorem scanBody_frame {p : List Byte} (hp : p.length ≤ Config.maxParams) (id error : Byte) (rest : List Byte) :
    scanBody h id (BitVec.ofNat 8 (p.length + 2))
        (error :: (p ++ checksum (id :: BitVec.ofNat 8 (p.length + 2) :: error :: p) :: rest)) =
      .packet h ⟨id, error, p⟩ := by
  have hlen := lenByte_toNat hp
  simp only [Config.maxParams] at hp
  simp only [scanBody, hlen, Config.rxFrameMax, show p.length + 2 - 1 = p.length + 1 by omega, List.length_cons,
    List.length_append, List.getD_cons_succ, List.getD_cons_zero, List.take_succ_cons, List.take_left, List.drop_succ_cons,
    List.drop_zero]
  rw [if_neg (by omega), if_neg (by omega), if_neg (by simp)]

/-- A scan that reaches a built frame of an acceptable ID answers its packet there (R83). -/
theorem scanFrom_frame {id error : Byte} {p f : List Byte} (hf : buildFrame id error p = some f) (hx : any = true ∨ id = x)
    (rest : List Byte) : scanFrom any x h (f ++ rest) = .packet h ⟨id, error, p⟩ := by
  obtain ⟨hp, rfl⟩ := buildFrame_eq_some hf
  refine scanFrom_of_scanAt ?_
  rw [← scanBody_frame hp id error rest, ← scanAt_candidate hx]
  simp only [List.cons_append, List.append_assoc, List.nil_append]

/-- A scan that reaches the beginning of a built frame waits there for the rest (R81). -/
theorem scanFrom_frame_begun {id error : Byte} {p c d : List Byte} (hf : buildFrame id error p = some (c ++ d))
    (hx : any = true ∨ id = x) (hc : c ≠ []) (hd : d ≠ []) : scanFrom any x h c = .incomplete h := by
  obtain ⟨hp, hbytes⟩ := buildFrame_eq_some hf
  have hid : ¬ (any = false ∧ id ≠ x) := by rcases hx with rfl | rfl <;> simp
  refine scanFrom_of_scanAt ?_
  rcases c with _ | ⟨b0, _ | ⟨b1, _ | ⟨b2, _ | ⟨b3, body⟩⟩⟩⟩ <;>
    simp only [List.cons_append, List.nil_append, List.cons.injEq] at hbytes
  · exact absurd rfl hc
  · obtain ⟨rfl, -⟩ := hbytes
    simp [scanAt]
  · obtain ⟨rfl, rfl, -⟩ := hbytes
    simp [scanAt]
  · obtain ⟨rfl, rfl, rfl, -⟩ := hbytes
    simp [scanAt, hid]
  · obtain ⟨rfl, rfl, rfl, rfl, hbody⟩ := hbytes
    have hshort : body.length < p.length + 2 := by
      have hlength := congrArg List.length hbody
      have hpos := List.length_pos_iff.2 hd
      simp only [List.length_append, List.length_cons, List.length_nil] at hlength
      omega
    have hlen := lenByte_toNat hp
    simp only [Config.maxParams] at hp
    rw [scanAt_candidate hx, scanBody, hlen, if_neg (by simp only [Config.rxFrameMax]; omega), if_pos hshort]

/-! ### Bytes at which no candidate starts (R82) -/

/-- No candidate starts in `g` before `f`: two header bytes there come before an ID that is not acceptable. -/
def NoCandidate (any : Bool) (x : Byte) (g f : List Byte) : Prop :=
  ∀ i, i < g.length → (g ++ f)[i]? = some Config.headerByte → (g ++ f)[i + 1]? = some Config.headerByte →
    any = false ∧ (g ++ f)[i + 2]? ≠ some x

/-- A scan passes over such bytes to those behind them. -/
theorem scanFrom_append_of_noCandidate {g f : List Byte} (hf : 2 ≤ f.length) (hg : NoCandidate any x g f)
    (rest : List Byte) : scanFrom any x h (g ++ f ++ rest) = scanFrom any x (h + g.length) (f ++ rest) := by
  induction g generalizing h with
  | nil => rfl
  | cons b0 g ih =>
    have htail : NoCandidate any x g f := fun i hi => hg (i + 1) (Nat.succ_lt_succ hi)
    have hhead := hg 0 (Nat.zero_lt_succ _)
    obtain ⟨b1, b2, bs, hbs⟩ : ∃ b1 b2 bs, g ++ f = b1 :: b2 :: bs := by
      rcases hgf : g ++ f with _ | ⟨b1, _ | ⟨b2, bs⟩⟩
      case cons.cons => exact ⟨b1, b2, bs, rfl⟩
      all_goals
        have hlength := congrArg List.length hgf
        simp only [List.length_append, List.length_cons, List.length_nil] at hlength
        omega
    simp only [List.cons_append, hbs, List.getElem?_cons_zero, List.getElem?_cons_succ, Option.some.injEq, ne_eq] at hhead
    have hnone : scanAt any x h (b0 :: (g ++ f ++ rest)) = none := by
      rw [hbs]
      exact scanAt_eq_none hhead (bs ++ rest)
    rw [List.cons_append, List.cons_append, scanFrom_of_scanAt_none hnone, ih htail, List.length_cons]
    congr 1
    omega

/-- In expected-ID mode with X other than 0xFF, a header byte before a frame is passed over: the frame's own two header bytes
make it three. -/
theorem scanFrom_header_frame {id error : Byte} {p f : List Byte} (hf : buildFrame id error p = some f)
    (hx : x ≠ Config.headerByte) (rest : List Byte) :
    scanFrom false x h (Config.headerByte :: (f ++ rest)) = scanFrom false x (h + 1) (f ++ rest) := by
  obtain ⟨-, rfl⟩ := buildFrame_eq_some hf
  exact scanFrom_of_scanAt_none (scanAt_eq_none (fun _ _ => ⟨rfl, hx.symm⟩) _)

end

/-! ### The statements (R82, R83) -/

/-- Settles O16: the frame is valid as `validFrame_of_buildFrame` says, and a scan answers it by `scanFrom_frame`. -/
theorem builtFrameIsValidAndScans : Obligations.BuiltFrameIsValidAndScans := by
  unfold Obligations.BuiltFrameIsValidAndScans
  intro id instr p
  refine ⟨fun hp => (buildFrame_eq_none id instr p).2 (by rw [hp]; decide), fun hp => ?_⟩
  obtain ⟨f, hf⟩ := exists_buildFrame id instr hp
  have hscan : ∀ {any x}, (any = true ∨ id = x) → scan f any x = .packet 0 ⟨id, instr, p⟩ := fun hx => by
    simpa only [scan, List.append_nil] using scanFrom_frame (h := 0) hf hx []
  refine ⟨f, hf, buildFrame_length hf, validFrame_of_buildFrame hf, fun x => hscan (.inl rfl), hscan (.inr rfl), ?_⟩
  rw [hscan (.inr rfl)]
  simp only [scanConsumed, Nat.zero_add]

/-- Settles O18: the bytes before the frame are passed over in each case, and `scanFrom_frame` answers the frame behind it. -/
theorem scanResynchronises : Obligations.ScanResynchronises := by
  unfold Obligations.ScanResynchronises
  intro g f rest id error x p any hf hx
  have hframe : ∀ h, scanFrom any x h (f ++ rest) = .packet h ⟨id, error, p⟩ := fun h => scanFrom_frame hf hx rest
  refine ⟨fun hg => ?_, fun hg => ⟨?_, ?_⟩⟩
  · have hlength : 2 ≤ f.length := by rw [buildFrame_length hf]; omega
    rw [scan, scanFrom_append_of_noCandidate hlength hg, hframe, Nat.zero_add]
  · rw [scan, List.append_assoc, scanFrom_append any x g _ hg, hframe, Nat.zero_add]
  · rintro rfl hne
    rw [scan, List.append_assoc, List.append_assoc, scanFrom_append false x g _ hg, List.singleton_append,
      scanFrom_header_frame hf hne, hframe, Nat.zero_add]

/-- Settles O19: each answer with what `scan_cases` says of the bytes; a packet's bytes are those of a built frame. -/
theorem scannedPacketIsAValidFrame : Obligations.ScannedPacketIsAValidFrame := by
  unfold Obligations.ScannedPacketIsAValidFrame
  intro b any x
  rcases scan_cases b any x with h | ⟨j, hj, h⟩ | ⟨j, hj, h, -⟩ | ⟨j, p, h, hx, hp, hfits, hbytes⟩ <;> rw [h]
  · exact ⟨Nat.le_refl _, nofun, nofun⟩
  · exact ⟨hj, fun _ _ => Nat.succ_le_succ (Nat.zero_le _), nofun⟩
  · exact ⟨Nat.le_of_lt hj, nofun, nofun⟩
  · refine ⟨hfits, nofun, fun h' p' heq => ?_⟩
    obtain ⟨rfl, rfl⟩ := ScanResult.packet.inj heq
    obtain ⟨f, hf⟩ := exists_buildFrame p.id p.error hp
    have hframe : (b.drop j).take (p.params.length + 6) = f := hbytes.trans (buildFrame_eq_some hf).2.symm
    rw [hframe]
    exact ⟨validFrame_of_buildFrame hf, Nat.add_le_add_right hp 6, hf, hx⟩

end Sys2Proof.Machine
end

section
/-! SUPPORT and the statements O20, O21, O22, O25 and O26. The packet codec's commands: the frame in TX_BUF, the transmit, the
launch of a receive, the checksum and the scan of PARAM_BUF. -/

namespace Sys2Proof.Machine

/-! ### CODEC_ENCODE (R84) -/

/-- TX_BUF reads back the frame built into it. -/
theorem bytesOf_loadFrame (f : List Byte) (s : State) : bytesOf (loadFrame f s) txBase f.length = f :=
  bytesOf_storeBytes_same txBase f s

/-- Settles O20: the two cases are those of `encodeFrame_cases`. -/
theorem codecEncodeResult : Obligations.CodecEncodeResult := by
  unfold Obligations.CodecEncodeResult
  intro id instr k s
  have hk : (paramBytes s k).length = k.toNat := bytesOf_length _ _ _
  have hexec : exec (.codecEncode id instr k) s = .next (encodeFrame id instr (paramBytes s k) s) := rfl
  rw [hexec]
  rcases encodeFrame_cases id instr (paramBytes s k) s with ⟨hlong, henc⟩ | ⟨hfits, f, hf, hlength, henc⟩ <;> rw [henc]
  · exact ⟨fun _ => rfl, fun hle => absurd (hk ▸ hlong) (Nat.not_lt.2 hle)⟩
  · refine ⟨fun hlt => absurd (hk ▸ hfits) (Nat.not_le.2 hlt), fun _ => ?_⟩
    rw [hk] at hlength
    have htxLen : (BitVec.ofNat 8 f.length : Byte) = k + 6 := by
      rw [hlength]
      bv_omega
    refine ⟨_, rfl, ?_, ?_, fun a ha => byteOf_loadFrame f s a (by simp only [txBase, hlength]; omega)⟩
    · rw [← htxLen]
      rfl
    · rw [← hlength]
      exact hf.trans (congrArg some (bytesOf_loadFrame f s).symm)

/-! ### CODEC_TRANSMIT (R85) -/

/-- A frame that the transport did not take in full (R85). -/
theorem transmitFrame_of_not_full {s : State} (h : nextOutcome (txFrame s) s ≠ .full) (expect : Bool) :
    transmitFrame expect s = finish .txFail (release (sendFrame .codec (txFrame s) s)) := if_pos h

/-- A frame taken in full: the guard stays with CODEC where a reply is expected (R85). -/
theorem transmitFrame_of_full {s : State} (h : nextOutcome (txFrame s) s = .full) (expect : Bool) :
    transmitFrame expect s =
      if expect then finish .success (sendFrame .codec (txFrame s) s)
      else finish .success (release (sendFrame .codec (txFrame s) s)) := if_neg (not_not_intro h)

/-- Settles O21: the two checks in their order, then the outcome of the write. -/
theorem codecTransmitResult : Obligations.CodecTransmitResult := by
  unfold Obligations.CodecTransmitResult
  intro expect s
  have hexec : exec (.codecTransmit expect) s =
      .next (if s.busy then finish .portBusy s else if s.txLen = 0 then finish .txError s else transmitFrame expect s) := rfl
  rw [hexec]
  refine ⟨fun hbusy => ?_, fun hfree hempty => ?_, fun hfree htx => ?_⟩
  · rw [if_pos hbusy]
    rfl
  · rw [if_neg (by simp [hfree]), if_pos hempty]
    rfl
  · rw [if_neg (by simp [hfree]), if_neg htx]
    refine ⟨fun hfail => ?_, fun hfull => ?_⟩
    · rw [transmitFrame_of_not_full hfail, hfree]
      rfl
    · rw [transmitFrame_of_full hfull]
      cases expect <;> rfl

/-! ### CODEC_RECEIVE, the launch (R86) -/

/-- The guard is held after a launch that takes it only where it is free (R86, R129). -/
theorem acquire_unless_busy (o : Owner) (s : State) :
    (if s.busy then s else acquire o s) = { s with busy := true, owner := if s.busy then s.owner else o } := by
  split
  · rename_i hbusy
    rw [← hbusy]
  · rfl

/-- Settles O22: the GSR's guard refuses the launch; otherwise CODEC holds the guard by `acquire_unless_busy`. -/
theorem codecReceiveLaunch : Obligations.CodecReceiveLaunch := by
  unfold Obligations.CodecReceiveLaunch
  intro id any nexp s
  have hexec : exec (.codecReceive id any nexp) s = .next (if s.owner = .gsr then finish .portBusy s else
      startReceive (.codecReceive id any nexp) { (if s.busy then s else acquire .codec s) with pktValid := false }) := rfl
  rw [hexec, acquire_unless_busy]
  refine ⟨fun hgsr => ?_, fun hgsr => ?_⟩
  · rw [if_pos hgsr]
    rfl
  · rw [if_neg hgsr]
    rfl

/-! ### CODEC_CHECKSUM (R61, R88) -/

theorem checksum_toNat (b : List Byte) : (checksum b).toNat = 255 - (b.map BitVec.toNat).sum % 256 := by
  rw [checksum, BitVec.toNat_ofNat]
  omega

/-- Settles O25: RESULT is the checksum byte with zeros above it. -/
theorem codecChecksumResult : Obligations.CodecChecksumResult := by
  unfold Obligations.CodecChecksumResult
  intro n s
  refine ⟨_, rfl, ?_⟩
  show ((checksum (paramBytes s n)).setWidth 32).toNat = _
  rw [BitVec.toNat_setWidth_of_le (by decide), checksum_toNat, paramBytes, bytesOf, List.map_map]
  rfl

/-! ### CODEC_SCAN (R89) -/

/-- RESULT in numbers, for a count and a position that fit their halves. -/
theorem scanWord_toNat {r : ScanResult} {c i : Nat} (hc : scanConsumed r = c) (hi : (scanPosition r).getD 0xFFFF = i)
    (hc' : c < 2 ^ 16) (hi' : i < 2 ^ 16) : (scanWord r).toNat = c + 2 ^ 16 * i := by
  rw [scanWord, hc, hi, toNat_append_eq_add, BitVec.toNat_ofNat, BitVec.toNat_ofNat, Nat.mod_eq_of_lt hc',
    Nat.mod_eq_of_lt hi', Nat.add_comm]

/-- PKT_BUF reads back the parameters of the packet put there (R87, R89). -/
theorem bytesOf_putPacket (p : Packet) (s : State) : bytesOf (putPacket p s) pktBase p.params.length = p.params :=
  bytesOf_storeBytes_same pktBase p.params s

section
variable {s : State} {id : Byte} {any : Bool} {n : Byte}

/-- CODEC_SCAN where the scan answers a packet (R89). -/
theorem exec_codecScan_packet {i : Nat} {p : Packet} (h : scan (bytesOf s 0x100 n.toNat) any id = .packet i p) :
    exec (.codecScan id any n) s = .next (finishWith (scanWord (.packet i p)) .success (putPacket p s)) := by
  simp only [exec, execCodecScan, paramBytes, paramBase, h, scanCode]

/-- CODEC_SCAN where the scan answers no packet (R89). -/
theorem exec_codecScan_no_packet {r : ScanResult} (h : scan (bytesOf s 0x100 n.toNat) any id = r)
    (hr : ∀ i p, r ≠ .packet i p) :
    exec (.codecScan id any n) s = .next (finishWith (scanWord r) (scanCode r) { s with pktValid := false }) := by
  simp only [exec, execCodecScan, paramBytes, paramBase, h]

end

/-- Settles O26: the four answers of the scan, each with the next state it gives. -/
theorem codecScanResult : Obligations.CodecScanResult := by
  unfold Obligations.CodecScanResult
  intro id any n s
  have hn := n.isLt
  have hlength : (bytesOf s 0x100 n.toNat).length = n.toNat := bytesOf_length _ _ _
  rcases scan_cases (bytesOf s 0x100 n.toNat) any id with h | ⟨j, hj, h⟩ | ⟨j, hj, h, -⟩ | ⟨j, p, h, -, hp, hfits, -⟩
  · refine ⟨_, exec_codecScan_no_packet h nofun, rfl, ?_⟩
    rw [h, hlength]
    refine ⟨nofun, nofun, nofun, fun i hi => ⟨rfl, scanWord_toNat rfl rfl (by omega) (by decide)⟩⟩
  · refine ⟨_, exec_codecScan_no_packet h nofun, rfl, ?_⟩
    rw [hlength] at hj
    rw [h]
    refine ⟨nofun, fun i hi => ?_, nofun, nofun⟩
    obtain rfl := ScanResult.failed.inj hi
    exact ⟨rfl, scanWord_toNat rfl rfl (by omega) (by omega)⟩
  · refine ⟨_, exec_codecScan_no_packet h nofun, rfl, ?_⟩
    rw [hlength] at hj
    rw [h]
    refine ⟨nofun, nofun, fun i hi => ?_, nofun⟩
    obtain rfl := ScanResult.incomplete.inj hi
    exact ⟨rfl, scanWord_toNat rfl rfl (by omega) (by omega)⟩
  · refine ⟨_, exec_codecScan_packet h, rfl, ?_⟩
    rw [hlength] at hfits
    rw [h]
    refine ⟨fun i q hq => ?_, nofun, nofun, nofun⟩
    obtain ⟨rfl, rfl⟩ := ScanResult.packet.inj hq
    have hcount : (BitVec.ofNat 8 p.params.length : Byte).toNat = p.params.length := by
      rw [BitVec.toNat_ofNat]
      omega
    exact ⟨rfl, rfl, scanWord_toNat rfl rfl (by omega) (by omega), rfl, rfl, hcount, bytesOf_putPacket p s,
      fun a ha => byteOf_putPacket p s a ha⟩

end Sys2Proof.Machine
end

section
/-! SUPPORT and the statements O24 and O23. The later steps of CODEC_RECEIVE: RX_BUF as a list through an appended byte and a
compaction, the step for each answer of the scan, and the run over the bytes of a stream. -/

namespace Sys2Proof.Machine

/-! ### RX_BUF as a list (R29, R87) -/

@[simp] theorem rxBytes_length (s : State) : (rxBytes s).length = s.rxCount.toNat := bytesOf_length _ _ _

theorem rxBytes_getElem? {s : State} {j : Nat} (hj : j < s.rxCount.toNat) :
    (rxBytes s)[j]? = some (byteOf s (rxBase + j)) := by
  simp [rxBytes, bytesOf, hj]

/-- A byte appended to RX_BUF stands behind those it held, where RX_COUNT does not wrap. -/
theorem rxBytes_appendRx (v : Byte) {s : State} (hroom : s.rxCount.toNat < 0xFFFF) :
    rxBytes (appendRx v s) = rxBytes s ++ [v] := by
  have hcount : (appendRx v s).rxCount.toNat = s.rxCount.toNat + 1 := by
    rw [appendRx_rxCount]
    bv_omega
  have hlast : byteOf (appendRx v s) (rxBase + s.rxCount.toNat) = v := by
    show byteOf (storeBytes (rxBase + s.rxCount.toNat) [v] s) _ = v
    rw [byteOf_storeBytes, if_pos ⟨Nat.le_refl _, Nat.lt_succ_self _⟩, Nat.sub_self]
    rfl
  have hfront : bytesOf (appendRx v s) rxBase s.rxCount.toNat = rxBytes s :=
    bytesOf_congr fun a _ ha => byteOf_appendRx v s a (Nat.ne_of_lt ha)
  rw [rxBytes, hcount, ← hfront, bytesOf, List.range_succ, List.map_append, List.map_singleton, hlast]
  rfl

/-- Compaction drops the consumed bytes from the front of RX_BUF. -/
theorem rxBytes_compactRx (c : Nat) (s : State) : rxBytes (compactRx c s) = (rxBytes s).drop c := by
  have hlength : (compactRx c s).rxCount.toNat = ((rxBytes s).drop c).length := by
    rw [compactRx_rxCount_toNat, List.length_drop, rxBytes_length]
  rw [rxBytes, hlength]
  exact bytesOf_storeBytes_same rxBase _ s

/-- The places of RX_BUF behind the bytes that stay keep their bytes. -/
theorem byteOf_compactRx_behind {c j : Nat} {s : State} (hj : s.rxCount.toNat - c ≤ j) :
    byteOf (compactRx c s) (rxBase + j) = byteOf s (rxBase + j) := by
  show byteOf (storeBytes rxBase ((rxBytes s).drop c) s) _ = _
  rw [byteOf_storeBytes, if_neg (by rw [List.length_drop, rxBytes_length]; omega)]

/-- A packet put into PKT_BUF leaves RX_BUF as it is. -/
theorem rxBytes_putPacket {p : Packet} (hp : p.params.length ≤ Config.maxParams) (s : State) :
    rxBytes (putPacket p s) = rxBytes s := by
  simp only [Config.maxParams] at hp
  exact bytesOf_congr fun a ha _ => byteOf_putPacket p s a (.inr (by simp only [pktBase, rxBase] at ha ⊢; omega))

/-! ### The records the steps leave (R87) -/

/-- The state with a byte taken off RXQ and the input off the list. -/
def taken (q : List Byte) (rest : List Input) (s : State) : State :=
  { s with transport := { s.transport with rxq := q }, inputs := rest }

theorem appendRx_taken_eq (v : Byte) (q : List Byte) (rest : List Input) (s : State) :
    appendRx v (taken q rest s) =
      { s with mem := (appendRx v (taken q rest s)).mem, rxCount := s.rxCount + 1,
               transport := { s.transport with rxq := q }, inputs := rest } := rfl

theorem compactRx_eq (c : Nat) (s : State) :
    compactRx c s = { s with mem := (compactRx c s).mem, rxCount := (compactRx c s).rxCount } := rfl

theorem putPacket_eq (p : Packet) (s : State) :
    putPacket p s = { s with mem := (putPacket p s).mem, pktValid := true,
                             pktInfo := ⟨p.id, p.error, BitVec.ofNat 8 p.params.length⟩ } := rfl

theorem endReceive_eq (cause : EndCause) (c : ResultCode) (s : State) :
    endReceive cause c s = { s with code := c, busy := false, owner := .nobody, rxEnd := cause, active := none,
                                    timer := false } := rfl

/-- An appended byte changes only its own place of RX_BUF. -/
theorem byteOf_appendRx_taken (v : Byte) (q : List Byte) (rest : List Input) {s : State} {a : Nat}
    (ha : a ≠ 0x10000 + s.rxCount.toNat) : byteOf (appendRx v (taken q rest s)) a = byteOf s a :=
  byteOf_appendRx v (taken q rest s) a ha

/-! The end of a receive writes no buffer byte. -/

theorem byteOf_endReceive (cause : EndCause) (c : ResultCode) (s : State) (a : Nat) :
    byteOf (endReceive cause c s) a = byteOf s a := rfl

theorem bytesOf_endReceive (cause : EndCause) (c : ResultCode) (s : State) (off n : Nat) :
    bytesOf (endReceive cause c s) off n = bytesOf s off n := rfl

theorem rxBytes_endReceive (cause : EndCause) (c : ResultCode) (s : State) : rxBytes (endReceive cause c s) = rxBytes s := rfl

/-! ### One delivered byte (R87) -/

section
variable {s : State} {x : Byte} {any : Bool} {nexp v : Byte} {q : List Byte} {rest : List Input}

/-- A delivery to an active CODEC_RECEIVE (R133). -/
theorem step_deliver_codec (ha : s.active = some (.codecReceive x any nexp)) (hq : s.transport.rxq = v :: q)
    (hin : s.inputs = .deliver :: rest) : step s = .next (codecByte x any v (taken q rest s)) := by
  rw [step_cons s hin]
  simp only [perform, deliverByte, ha, hq, receiveByte, taken]

variable (hroom : s.rxCount.toNat < Config.rxFrameMax)
include hroom

theorem rxBytes_taken_appendRx : rxBytes (appendRx v (taken q rest s)) = rxBytes s ++ [v] :=
  rxBytes_appendRx v (s := taken q rest s) (Nat.lt_trans hroom (by decide))

/-- A packet ends the command with Success. -/
theorem codecByte_packet {i : Nat} {p : Packet} (hscan : scan (rxBytes s ++ [v]) any x = .packet i p) :
    codecByte x any v (taken q rest s) = endReceive .decoded .success (putPacket p (appendRx v (taken q rest s))) := by
  simp only [codecByte, rxBytes_taken_appendRx hroom, hscan]

/-- A failed candidate ends the command with RxCorrupt. -/
theorem codecByte_failed {i : Nat} (hscan : scan (rxBytes s ++ [v]) any x = .failed i) :
    codecByte x any v (taken q rest s) = endReceive .decoded .rxCorrupt (appendRx v (taken q rest s)) := by
  simp only [codecByte, rxBytes_taken_appendRx hroom, hscan]

/-- With no packet and no failed candidate the consumed bytes are dropped and the command goes on. -/
theorem codecByte_waiting {i : Nat}
    (hscan : scan (rxBytes s ++ [v]) any x = .incomplete i ∨ scan (rxBytes s ++ [v]) any x = .noHeader i) :
    codecByte x any v (taken q rest s) = compactRx i (appendRx v (taken q rest s)) := by
  rcases hscan with hscan | hscan <;> simp only [codecByte, rxBytes_taken_appendRx hroom, hscan]

end

/-- Settles O24: the answers of the scan by `codecByte_packet`, `codecByte_failed` and `codecByte_waiting`; a timeout and a read
error end the receive. -/
theorem codecReceiveSteps : Obligations.CodecReceiveSteps := by
  unfold Obligations.CodecReceiveSteps
  intro s x any nexp rest ha hroom
  refine ⟨fun v q hq hin => ⟨_, step_deliver_codec ha hq hin, fun i p hscan => ?_, fun i hscan => ?_, fun i hscan => ?_⟩,
    fun htimer hin => ?_, fun hin => ?_⟩
  · have hp := scan_packet_length hscan
    rw [codecByte_packet hroom hscan]
    refine ⟨?_, ?_, ?_, fun a hpkt hrx => ?_⟩
    · rw [endReceive_eq, putPacket_eq, appendRx_taken_eq]
    · rw [rxBytes_endReceive, rxBytes_putPacket hp, rxBytes_taken_appendRx hroom]
    · rw [bytesOf_endReceive]
      exact bytesOf_putPacket p _
    · rw [byteOf_endReceive, byteOf_putPacket p _ a hpkt, byteOf_appendRx_taken v q rest hrx]
  · rw [codecByte_failed hroom hscan]
    refine ⟨?_, ?_, fun a hrx => ?_⟩
    · rw [endReceive_eq, appendRx_taken_eq]
    · rw [rxBytes_endReceive, rxBytes_taken_appendRx hroom]
    · rw [byteOf_endReceive, byteOf_appendRx_taken v q rest hrx]
  · have hb : rxBytes (appendRx v (taken q rest s)) = rxBytes s ++ [v] := rxBytes_taken_appendRx hroom
    have hcount : (appendRx v (taken q rest s)).rxCount.toNat = (rxBytes s ++ [v]).length := by rw [← hb, rxBytes_length]
    rw [codecByte_waiting hroom hscan]
    refine ⟨?_, by rw [rxBytes_compactRx, hb], fun j hlow hhigh => ?_, fun a hout => ?_⟩
    · rw [compactRx_eq, appendRx_taken_eq]
    · rw [← hcount] at hlow hhigh
      rw [← hb, rxBytes_getElem? hhigh]
      exact congrArg some (byteOf_compactRx_behind hlow).symm
    · have hrx : a ≠ 0x10000 + s.rxCount.toNat := by
        rw [List.length_append, rxBytes_length, List.length_singleton] at hout
        omega
      rw [byteOf_compactRx i _ a (by rwa [hcount]), byteOf_appendRx_taken v q rest hrx]
  · rw [step_cons s hin]
    simp only [perform, receiveTimeout, htimer, ha, if_true]
    rfl
  · rw [step_cons s hin]
    simp only [perform, receiveError, ha]
    rfl

/-! ### The run over a stream (R82, R87) -/

/-- `t` is `s` after deliveries that left `q` in RXQ and the inputs `ins`: only RX_COUNT and the first `n` places of RX_BUF may
differ beside. -/
structure Received (n : Nat) (q : List Byte) (ins : List Input) (s t : State) : Prop where
  others : t = { s with mem := t.mem, rxCount := t.rxCount, transport := { s.transport with rxq := q }, inputs := ins }
  bytes : ∀ a, (a < rxBase ∨ rxBase + n ≤ a) → byteOf t a = byteOf s a

section
variable {s t u : State} {m n : Nat} {x : Byte} {any : Bool} {nexp v : Byte} {q q' : List Byte} {ins ins' : List Input}

theorem Received.refl (hq : s.transport.rxq = q) (hin : s.inputs = ins) (n : Nat) : Received n q ins s s := by
  subst hq hin
  exact ⟨rfl, fun _ _ => rfl⟩

theorem Received.trans (hst : Received n q ins s t) (htu : Received n q' ins' t u) : Received n q' ins' s u := by
  refine ⟨?_, fun a ha => (htu.bytes a ha).trans (hst.bytes a ha)⟩
  rw [htu.others, hst.others]

theorem Received.mono (h : Received m q ins s t) (hmn : m ≤ n) : Received n q ins s t :=
  ⟨h.others, fun a ha => h.bytes a (by omega)⟩

theorem Received.active (h : Received n q ins s t) : t.active = s.active := by rw [h.others]
theorem Received.rxq (h : Received n q ins s t) : t.transport.rxq = q := by rw [h.others]
theorem Received.inputs (h : Received n q ins s t) : t.inputs = ins := by rw [h.others]

/-- RX_COUNT is the number of bytes kept. -/
theorem rxCount_of_rxBytes {b : List Byte} (h : rxBytes s = b) : s.rxCount = BitVec.ofNat 16 b.length := by
  rw [← h, rxBytes_length, BitVec.ofNat_toNat, BitVec.setWidth_eq]

/-- A delivered byte after which the scan waits. -/
theorem step_received (ha : s.active = some (.codecReceive x any nexp)) (hroom : s.rxCount.toNat < Config.rxFrameMax)
    (hq : s.transport.rxq = v :: q) (hin : s.inputs = .deliver :: ins) {i : Nat}
    (hscan : scan (rxBytes s ++ [v]) any x = .incomplete i ∨ scan (rxBytes s ++ [v]) any x = .noHeader i) :
    ∃ t, step s = .next t ∧ Received (rxBytes s ++ [v]).length q ins s t ∧ rxBytes t = (rxBytes s ++ [v]).drop i := by
  obtain ⟨t, hstep, -, -, hwait⟩ := (codecReceiveSteps s x any nexp ins ha hroom).1 v q hq hin
  obtain ⟨hothers, hrx, -, hbytes⟩ := hwait i hscan
  exact ⟨t, hstep, ⟨hothers, hbytes⟩, hrx⟩

/-- Bytes without a header byte are delivered and dropped, one a step. -/
theorem run_garbage {g : List Byte} (hg : ∀ b ∈ g, b ≠ Config.headerByte) (ha : s.active = some (.codecReceive x any nexp))
    (hrx : rxBytes s = []) (hq : s.transport.rxq = g ++ q) (hin : s.inputs = List.replicate g.length .deliver ++ ins) :
    ∃ t : State, (∀ k, Host.Core.run core (g.length + k) s = Host.Core.run core k t) ∧ Received 1 q ins s t ∧ rxBytes t = [] := by
  induction g generalizing s with
  | nil => exact ⟨s, fun k => by rw [List.length_nil, Nat.zero_add], .refl hq hin 1, hrx⟩
  | cons b g ih =>
    have hroom : s.rxCount.toNat < Config.rxFrameMax := by
      rw [← rxBytes_length, hrx]
      decide
    have hscan : scan (rxBytes s ++ [b]) any x = .noHeader 1 := by
      rw [hrx, scan, List.nil_append, scanFrom_skip _ _ _ _ _ (hg b List.mem_cons_self)]
      rfl
    obtain ⟨t, hstep, hst, htrx⟩ := step_received ha hroom hq hin (.inr hscan)
    rw [hrx] at hst htrx
    obtain ⟨u, hrun, htu, hurx⟩ :=
      ih (fun c hc => hg c (List.mem_cons_of_mem _ hc)) (hst.active.trans ha) htrx hst.rxq hst.inputs
    refine ⟨u, fun k => ?_, hst.trans htu, hurx⟩
    rw [List.length_cons, Nat.add_right_comm, run_succ_of_next hstep, hrun]

/-- The bytes of a frame before its last are delivered and kept, one a step: `c` are those kept so far. -/
theorem run_frame_begun {id error : Byte} {p c d e : List Byte} (hf : buildFrame id error p = some (c ++ (d ++ e)))
    (hx : any = true ∨ id = x) (he : e ≠ []) (ha : s.active = some (.codecReceive x any nexp)) (hrx : rxBytes s = c)
    (hq : s.transport.rxq = d ++ q) (hin : s.inputs = List.replicate d.length .deliver ++ ins) :
    ∃ t : State, (∀ k, Host.Core.run core (d.length + k) s = Host.Core.run core k t) ∧ Received (c ++ d).length q ins s t ∧
      rxBytes t = c ++ d := by
  induction d generalizing s c with
  | nil => exact ⟨s, fun k => by rw [List.length_nil, Nat.zero_add], .refl hq hin _, by rw [hrx, List.append_nil]⟩
  | cons b d ih =>
    have hf' : buildFrame id error p = some ((c ++ [b]) ++ (d ++ e)) := by rw [hf, List.append_assoc]; rfl
    have hroom : s.rxCount.toNat < Config.rxFrameMax := by
      have hbound := (buildFrame_bounds hf).2
      rw [← rxBytes_length, hrx]
      simp only [Config.maxFrame, Config.rxFrameMax, List.length_append, List.length_cons] at hbound ⊢
      omega
    have hscan : scan (rxBytes s ++ [b]) any x = .incomplete 0 := by
      rw [hrx]
      exact scanFrom_frame_begun hf' hx (List.concat_ne_nil _ _) (List.append_ne_nil_of_right_ne_nil _ he)
    obtain ⟨t, hstep, hst, htrx⟩ := step_received ha hroom hq hin (.inl hscan)
    rw [hrx] at hst htrx
    obtain ⟨u, hrun, htu, hurx⟩ := ih hf' (hst.active.trans ha) htrx hst.rxq hst.inputs
    have hkept : c ++ [b] ++ d = c ++ b :: d := by rw [List.append_assoc]; rfl
    rw [hkept] at htu hurx
    refine ⟨u, fun k => ?_, (hst.mono ?_).trans htu, hurx⟩
    · rw [List.length_cons, Nat.add_right_comm, run_succ_of_next hstep, hrun]
    · simp only [List.length_append, List.length_cons, List.length_nil]
      omega

end

/-- Settles O23: the garbage by `run_garbage`, the frame but its last byte by `run_frame_begun`, and the last byte ends the receive
with the packet as `codecReceiveSteps` says. -/
theorem codecReceiveDecodesAStreamedFrame : Obligations.CodecReceiveDecodesAStreamedFrame := by
  unfold Obligations.CodecReceiveDecodesAStreamedFrame
  intro s x any nexp id error p g f q rest ha hcount hx hg hf hq hin
  have hlength := buildFrame_length hf
  obtain ⟨d, v, rfl⟩ : ∃ d v, f = d ++ [v] :=
    ⟨_, _, (List.dropLast_append_getLast (List.ne_nil_of_length_pos (by omega))).symm⟩
  have hrx : rxBytes s = [] := List.eq_nil_of_length_eq_zero (by rw [rxBytes_length, hcount]; rfl)
  rw [List.append_assoc, List.append_assoc] at hq
  have hin' : s.inputs =
      List.replicate g.length .deliver ++ (List.replicate d.length .deliver ++ (.deliver :: rest)) := by
    rw [hin, List.length_append, ← Nat.add_assoc, List.replicate_add, List.replicate_add, List.append_assoc, List.append_assoc]
    rfl
  obtain ⟨t₁, hrun₁, hst₁, hrx₁⟩ := run_garbage hg ha hrx hq hin'
  obtain ⟨t₂, hrun₂, hst₂, hrx₂⟩ := run_frame_begun (c := []) hf hx (List.cons_ne_nil v []) (hst₁.active.trans ha) hrx₁
    hst₁.rxq hst₁.inputs
  rw [List.nil_append] at hst₂ hrx₂
  have hcount₂ : t₂.rxCount.toNat = d.length := by rw [← hrx₂, rxBytes_length]
  rw [List.length_append, List.length_singleton] at hlength
  obtain ⟨hothers, hbytes⟩ := (hst₁.mono (by omega)).trans hst₂
  have hscan : scan (rxBytes t₂ ++ [v]) any x = .packet 0 ⟨id, error, p⟩ := by
    simpa only [hrx₂, scan, List.append_nil] using scanFrom_frame (h := 0) hf hx []
  have hroom : t₂.rxCount.toNat < 250 := by
    have hp := (buildFrame_eq_some hf).1
    simp only [Config.maxParams] at hp
    omega
  obtain ⟨t, hstep, hpacket, -⟩ := (codecReceiveSteps t₂ x any nexp rest (hst₂.active.trans (hst₁.active.trans ha)) hroom).1 v q
    hst₂.rxq hst₂.inputs
  obtain ⟨hend, hrxt, hpkt, hmem⟩ := hpacket 0 _ hscan
  rw [hrx₂] at hrxt
  refine ⟨t, ?_, ?_, hpkt, hrxt, fun a hout hrx => ?_⟩
  · rw [List.length_append, List.length_singleton, hrun₁, hrun₂]
    exact (run_one t₂).trans hstep
  · have hcountt : t.rxCount = BitVec.ofNat 16 (d ++ [v]).length := rxCount_of_rxBytes hrxt
    rw [← hcountt, hend, hothers]
  · rw [List.length_append, List.length_singleton] at hrx
    rw [hmem a hout (by omega), hbytes a (by simp only [rxBase]; omega)]

end Sys2Proof.Machine
end

section
/-! SUPPORT and the statements O27 to O32. The word codec: a word put together from its two bytes and taken apart again, and the
sign-magnitude conversion in integers, from the device's form to the host's and back. -/

namespace Sys2Proof.Machine

/-! ### A word and its two bytes (R91 to R93) -/

/-- OPA[31:16] is ignored. -/
theorem opaHalf_toNat (s : State) : (opaHalf s).toNat = s.opa.toNat % 2 ^ 16 := by
  rw [opaHalf, BitVec.extractLsb'_toNat, Nat.shiftRight_zero]

/-- The host takes a byte out of RESULT as it was put there. -/
theorem low_byte_of_zeroExtend (b : Byte) : (b.zeroExtend 32).extractLsb' 0 8 = b := by
  rw [← BitVec.setWidth_eq_extractLsb' (by decide), BitVec.setWidth_setWidth_of_le _ (by decide), BitVec.setWidth_eq]

theorem makeWord_small_toNat (b0 b1 : Byte) : (makeWord b0 b1 .small).toNat = b0.toNat + 256 * b1.toNat :=
  (toNat_append_eq_add b1 b0).trans (Nat.add_comm _ _)

theorem makeWord_big_toNat (b0 b1 : Byte) : (makeWord b0 b1 .big).toNat = 256 * b0.toNat + b1.toNat :=
  toNat_append_eq_add b0 b1

theorem loByte_small_toNat (w : BitVec 16) : (loByte w .small).toNat = w.toNat % 256 := by
  rw [loByte, BitVec.extractLsb'_toNat, Nat.shiftRight_zero]

theorem hiByte_small_toNat (w : BitVec 16) : (hiByte w .small).toNat = w.toNat / 256 % 256 := by
  rw [hiByte, BitVec.extractLsb'_toNat, Nat.shiftRight_eq_div_pow]

/-- BigEndian exchanges the two bytes. -/
theorem loByte_big (w : BitVec 16) : loByte w .big = hiByte w .small := rfl

theorem hiByte_big (w : BitVec 16) : hiByte w .big = loByte w .small := rfl

/-- The endian symmetry of R93. -/
theorem makeWord_loByte_hiByte (w : BitVec 16) (e : Endian) : makeWord (loByte w e) (hiByte w e) e = w := by
  have hw := w.isLt
  apply BitVec.eq_of_toNat_eq
  cases e with
  | small =>
    rw [makeWord_small_toNat, loByte_small_toNat, hiByte_small_toNat]
    omega
  | big =>
    rw [makeWord_big_toNat, loByte_big, hiByte_big, loByte_small_toNat, hiByte_small_toNat]
    omega

/-- WORD_MAKE of the bytes that WORD_LOBYTE and WORD_HIBYTE left in RESULT. -/
theorem exec_wordMake_of_extracted (w : BitVec 16) (e : Endian) (u : State) :
    exec (.wordMake (((loByte w e).zeroExtend 32).extractLsb' 0 8) (((hiByte w e).zeroExtend 32).extractLsb' 0 8) e) u =
      .next (finishWith (w.zeroExtend 32) .success u) := by
  rw [low_byte_of_zeroExtend, low_byte_of_zeroExtend]
  show Host.Outcome.next (finishWith ((makeWord (loByte w e) (hiByte w e) e).zeroExtend 32) .success u) = _
  rw [makeWord_loByte_hiByte]

/-- Settles O27: the sums of the two bytes are those of `makeWord_small_toNat` and `makeWord_big_toNat`. -/
theorem wordMakeResult : Obligations.WordMakeResult := by
  unfold Obligations.WordMakeResult
  intro b0 b1 s
  exact ⟨⟨_, rfl, (BitVec.toNat_setWidth_of_le (by decide)).trans (makeWord_small_toNat b0 b1)⟩,
    ⟨_, rfl, (BitVec.toNat_setWidth_of_le (by decide)).trans (makeWord_big_toNat b0 b1)⟩⟩

/-- Settles O28: the bytes of OPA's low half, and `exec_wordMake_of_extracted` in each mode. -/
theorem wordBytesResult : Obligations.WordBytesResult := by
  unfold Obligations.WordBytesResult
  intro s
  refine ⟨(loByte (opaHalf s) .small).zeroExtend 32, (hiByte (opaHalf s) .small).zeroExtend 32, ?_, ?_, rfl, rfl, rfl, rfl,
    fun u => ⟨(opaHalf s).zeroExtend 32, ?_, exec_wordMake_of_extracted _ .small u, exec_wordMake_of_extracted _ .big u⟩⟩
  · rw [BitVec.toNat_setWidth_of_le (by decide), loByte_small_toNat, opaHalf_toNat]
    omega
  · rw [BitVec.toNat_setWidth_of_le (by decide), hiByte_small_toNat, opaHalf_toNat]
    omega
  · rw [BitVec.toNat_setWidth_of_le (by decide), opaHalf_toNat]

/-- Settles O29: the two extractions leave the bytes that `exec_wordMake_of_extracted` speaks of. -/
theorem endianSymmetry : Obligations.EndianSymmetry := by
  unfold Obligations.EndianSymmetry
  intro e s t u v hlo hhi hmake
  obtain rfl : finishWith ((loByte (opaHalf s) e).zeroExtend 32) .success s = t := Host.Outcome.next.inj hlo
  obtain rfl : finishWith ((hiByte (opaHalf s) e).zeroExtend 32) .success s = u := Host.Outcome.next.inj hhi
  rw [finishWith_result, finishWith_result, exec_wordMake_of_extracted] at hmake
  obtain rfl := Host.Outcome.next.inj hmake
  rw [finishWith_result, BitVec.toNat_setWidth_of_le (by decide), opaHalf_toNat]

/-! ### From the device's form to the host's (R95) -/

/-- A word without a bit that is set in it. -/
theorem clearBit_toNat {v : BitVec 16} {s : Nat} (h : v.getLsbD s = true) :
    (v &&& ~~~(1#16 <<< s)).toNat + 2 ^ s = v.toNat := by
  have hs : s < 16 := BitVec.lt_of_getLsbD h
  have hbit : (BitVec.twoPow 16 s).toNat = 2 ^ s := BitVec.toNat_twoPow_of_lt hs
  have hdisjoint : v &&& ~~~BitVec.twoPow 16 s &&& BitVec.twoPow 16 s = 0#16 := by
    rw [BitVec.and_assoc, BitVec.and_comm (~~~_), BitVec.and_not_self]
    exact BitVec.and_zero
  have hjoin : v &&& ~~~BitVec.twoPow 16 s ||| BitVec.twoPow 16 s = v := by
    ext j hj
    by_cases hjs : j = s
    · subst hjs
      simpa [BitVec.getLsbD_eq_getElem hj] using h
    · simp [hjs]
  rw [← BitVec.twoPow_eq, ← hbit, ← BitVec.toNat_add_of_and_eq_zero hdisjoint,
    BitVec.add_eq_or_of_and_eq_zero _ _ hdisjoint, hjoin]

/-- R95 in integers. -/
theorem toHost_eq (v : BitVec 16) (s : Nat) :
    toHost v s = if v.getLsbD s then 2 ^ s - (v.toNat : Int) else (v.toNat : Int) := by
  unfold toHost
  split
  · rename_i hsign
    have hclear := clearBit_toNat hsign
    push_cast [← hclear]
    omega
  · rfl

/-- A number of the host's form fits an i32. -/
theorem toHost_toInt (v : BitVec 16) (s : Nat) : (BitVec.ofInt 32 (toHost v s)).toInt = toHost v s := by
  have hbounds : -2 ^ 16 < toHost v s ∧ toHost v s < 2 ^ 16 := by
    have hv := v.isLt
    have hclear := (v &&& ~~~(1#16 <<< s)).isLt
    unfold toHost
    split <;> omega
  exact BitVec.toInt_ofInt_eq_self (by decide) (by omega) (by omega)

/-- Settles O30: `toHost_eq` of OPA's low half, whose bit s is OPA's. -/
theorem signToHostResult : Obligations.SignToHostResult := by
  unfold Obligations.SignToHostResult
  intro i s
  have hbit : (opaHalf s).getLsbD i.toNat = s.opa.getLsbD i.toNat := by
    simp only [opaHalf, BitVec.getLsbD_extractLsb', i.isLt, decide_true, Bool.true_and, Nat.zero_add]
  refine ⟨BitVec.ofInt 32 (toHost (opaHalf s) i.toNat), rfl, ?_⟩
  rw [toHost_toInt, toHost_eq, hbit, opaHalf_toNat]
  push_cast
  rfl

/-! ### From the host's form to the device's (R96) -/

theorem toDevice_of_nonneg {v : Int} (h : 0 ≤ v) (s : Nat) : toDevice v s = BitVec.ofInt 32 v := if_neg (Int.not_lt.2 h)

theorem toDevice_of_neg {v : Int} (h : v < 0) (s : Nat) : toDevice v s = BitVec.ofInt 32 (-v) ||| BitVec.twoPow 32 s :=
  if_pos h

/-- Settles O31: the magnitude of OPA, wrapped to 32 bits, is the negated word. -/
theorem signToDeviceResult : Obligations.SignToDeviceResult := by
  unfold Obligations.SignToDeviceResult
  intro i s
  refine ⟨toDevice (opaInt s) i.toNat, rfl, fun hnonneg => ?_, fun hneg j => ?_⟩
  · rw [opaInt, toDevice_of_nonneg hnonneg, BitVec.ofInt_toInt]
  · have hi : i.toNat < 32 := i.isLt.trans (by decide)
    rw [opaInt, toDevice_of_neg hneg, BitVec.ofInt_neg, BitVec.ofInt_toInt, BitVec.getLsbD_or, BitVec.getLsbD_twoPow,
      Bool.or_comm, decide_eq_true hi, Bool.true_and]
    simp only [eq_comm]

/-! ### The sign round trip (R97) -/

/-- The device's form of a number whose magnitude leaves bit s free. -/
theorem toDevice_toNat {v : Int} {s : Nat} (hs : s < 16) (h : v.natAbs < 2 ^ s) :
    (toDevice v s).toNat = if v < 0 then 2 ^ s + v.natAbs else v.natAbs := by
  have hpow : 2 ^ s < 2 ^ 16 := Nat.pow_lt_pow_right (by decide) hs
  have hmagnitude : (BitVec.ofInt 32 (v.natAbs : Int)).toNat = v.natAbs := by
    rw [BitVec.ofInt_natCast, BitVec.toNat_ofNat]
    omega
  split
  · rename_i hneg
    have habs : -v = (v.natAbs : Int) := by omega
    rw [toDevice_of_neg hneg, habs, BitVec.toNat_or, hmagnitude, BitVec.toNat_twoPow_of_lt (hs.trans (by decide)), Nat.or_comm]
    simpa using (Nat.two_pow_add_eq_or_of_lt h 1).symm
  · rename_i hneg
    have habs : v = (v.natAbs : Int) := by omega
    rw [toDevice_of_nonneg (Int.not_lt.1 hneg), habs, hmagnitude, Int.natAbs_natCast]

/-- R97 for the two conversions. -/
theorem toHost_toDevice {v : Int} {s : Nat} (hs : s < 16) (h : v.natAbs < 2 ^ s) :
    toHost ((toDevice v s).extractLsb' 0 16) s = v := by
  have hpow : 2 ^ s ≤ 2 ^ 15 := Nat.pow_le_pow_right (by decide) (Nat.le_of_lt_succ hs)
  have hhalf : ((toDevice v s).extractLsb' 0 16).toNat = if v < 0 then 2 ^ s + v.natAbs else v.natAbs := by
    rw [BitVec.extractLsb'_toNat, Nat.shiftRight_zero, toDevice_toNat hs h]
    split <;> omega
  rw [toHost_eq, BitVec.getLsbD, hhalf]
  by_cases hneg : v < 0
  · rw [if_pos hneg, Nat.testBit_two_pow_add_eq, Nat.testBit_lt_two_pow h]
    simp only [Bool.not_false, if_true, Nat.cast_add, Nat.cast_pow, Nat.cast_ofNat]
    omega
  · rw [if_neg hneg, Nat.testBit_lt_two_pow h]
    simp only [Bool.false_eq_true, if_false]
    omega

/-- Settles O32: `toHost_toDevice`, the two numbers between the steps being whole in their registers. -/
theorem signRoundTrip : Obligations.SignRoundTrip := by
  unfold Obligations.SignRoundTrip
  intro i v s t u w hlow hhigh hopa hdevice hhalf hhost
  have hpow : 2 ^ i.toNat ≤ 2 ^ 15 := Nat.pow_le_pow_right (by decide) (Nat.le_of_lt_succ i.isLt)
  have hcast : ((2 ^ i.toNat : Nat) : Int) = 2 ^ i.toNat := Nat.cast_pow 2 _
  have habs : v.natAbs < 2 ^ i.toNat := by omega
  have hv : opaInt s = v := by
    rw [opaInt, hopa]
    exact BitVec.toInt_ofInt_eq_self (by decide) (by omega) (by omega)
  obtain rfl : finishWith (toDevice (opaInt s) i.toNat) .success s = t := Host.Outcome.next.inj hdevice
  obtain rfl : finishWith (BitVec.ofInt 32 (toHost (opaHalf u) i.toNat)) .success u = w := Host.Outcome.next.inj hhost
  rw [finishWith_result, toHost_toInt, opaHalf, hhalf, finishWith_result, hv, toHost_toDevice i.isLt habs]

end Sys2Proof.Machine
end

section
/-! SUPPORT and the statements O33 to O40. The group-sync-write engine's commands: what each update of the table leaves of the
engine and of the count of its IDs, the records of FLAT, and the transmit. -/

namespace Sys2Proof.Machine

/-! ### The present IDs and their count (R24, R31) -/

theorem mem_gswIds_iff (g : Gsw) (i : Nat) : i ∈ gswIds g ↔ (gswDevOf g i).present = true :=
  (mem_gswIds g i).trans ⟨And.right, fun h => ⟨lt_of_gsw_present h, h⟩⟩

theorem gswIds_nodup (g : Gsw) : (gswIds g).Nodup := (gswIds_ascending g).imp Nat.ne_of_lt

/-- Where only `i` joins the table, the IDs are `i` and those before, in some order. -/
theorem gswCount_of_joins {g h : Gsw} {i : Nat} (hg : (gswDevOf g i).present = false) (hh : (gswDevOf h i).present = true)
    (hrest : ∀ j, j ≠ i → gswDevOf h j = gswDevOf g j) : gswCount h = gswCount g + 1 := by
  have hnew : i ∉ gswIds g := by simp [mem_gswIds_iff, hg]
  have hperm : (gswIds h).Perm (i :: gswIds g) := by
    refine (List.perm_ext_iff_of_nodup (gswIds_nodup h) (List.nodup_cons.2 ⟨hnew, gswIds_nodup g⟩)).2 fun j => ?_
    rw [List.mem_cons, mem_gswIds_iff, mem_gswIds_iff]
    by_cases hj : j = i
    · simp [hj, hh]
    · simp [hj, hrest j hj]
  exact hperm.length_eq

/-! ### The updates of the engine (R99 to R103) -/

/-- The emptied table has no ID (R99, R103). -/
theorem emptyGsw_absent (g : Gsw) (i : Nat) : (gswDevOf (emptyGsw g) i).present = false := by rw [gswDevOf_emptyGsw]

theorem putGswDev_eq (i : Nat) (d : GswDev) (g : Gsw) : putGswDev i d g = { g with devs := (putGswDev i d g).devs } := by
  unfold putGswDev; split <;> rfl

/-- A stored payload changes the table, PHASE and DIRTY (R100, R102). -/
theorem storePayload_eq (id : Byte) (p : List Byte) (g : Gsw) :
    storePayload id p g = { g with devs := (storePayload id p g).devs, phase := .populated, dirty := true } :=
  congrArg (fun h : Gsw => { h with phase := .populated, dirty := true }) (putGswDev_eq id.toNat _ g)

/-- A removal changes the table, PHASE and DIRTY (R101). -/
theorem removeGsw_eq (id : Byte) (g : Gsw) :
    removeGsw id g = { g with devs := (removeGsw id g).devs, phase := (removeGsw id g).phase, dirty := true } :=
  congrArg (fun h : Gsw => { h with phase := (removeGsw id g).phase, dirty := true }) (putGswDev_eq id.toNat _ g)

/-- PHASE after a removal follows the count it leaves (R101). -/
theorem removeGsw_phase (id : Byte) (g : Gsw) :
    (removeGsw id g).phase = if gswCount (removeGsw id g) = 0 then .empty else .populated := rfl

/-- The slot window of a stored payload: the payload padded with zeros (R100, R102). -/
theorem slotBytes_storePayload {id : Byte} (hid : validId id = true) {p : List Byte} {g : Gsw}
    (hp : p.length ≤ g.len.toNat) :
    slotBytes id.toNat (gswDevOf (storePayload id p g) id.toNat).slot g.len.toNat =
      p ++ List.replicate (g.len.toNat - p.length) 0 := by
  have hlength : (padPayload g.len p).length = g.len.toNat := by rw [padPayload_length, Nat.max_eq_left hp]
  rw [gswDevOf_storePayload hid, if_pos rfl]
  conv_lhs => rw [← hlength]
  exact slotBytes_writeSlot id.toNat (padPayload g.len p) _

theorem storePayload_present {id : Byte} (hid : validId id = true) (p : List Byte) (g : Gsw) :
    (gswDevOf (storePayload id p g) id.toNat).present = true := by
  rw [gswDevOf_storePayload hid, if_pos rfl]

theorem gswDevOf_storePayload_other {id : Byte} (hid : validId id = true) (p : List Byte) (g : Gsw) {j : Nat}
    (hj : j ≠ id.toNat) : gswDevOf (storePayload id p g) j = gswDevOf g j := by
  rw [gswDevOf_storePayload hid, if_neg hj]

/-- The slot window that GSW_ADD and GSW_CHANGE leave: PARAM_BUF's bytes padded with zeros (R100, R102). -/
theorem slotBytes_storePayload_paramBytes {id n : Byte} {s : State} (hid : validId id = true) (hn : n.toNat ≤ s.gsw.len.toNat) :
    slotBytes id.toNat (gswDevOf (storePayload id (paramBytes s n) s.gsw) id.toNat).slot s.gsw.len.toNat =
      bytesOf s 0x100 n.toNat ++ List.replicate (s.gsw.len.toNat - n.toNat) 0 := by
  have hlength : (paramBytes s n).length = n.toNat := bytesOf_length s _ _
  rw [slotBytes_storePayload hid (hlength.trans_le hn), hlength]
  rfl

/-- An ID above 0xFC is absent as the rules test it (R101, R102). -/
theorem gswPresent_eq_false_iff (g : Gsw) (id : Byte) :
    gswPresent g id = false ↔ 0xFC < id.toNat ∨ (gswDevOf g id.toNat).present = false := by
  rw [← Bool.not_eq_true, gswPresent_iff, Bool.not_eq_true]
  refine ⟨.inr, fun h => h.elim (fun hhigh => ?_) fun habsent => habsent⟩
  rw [gswDevOf_of_not_lt g (by simp only [Config.idSlots]; omega)]
  rfl

/-! ### GSW_INIT and GSW_CLEAR (R99, R103) -/

/-- Settles O33: no ID of the emptied table is present. -/
theorem gswInitResult : Obligations.GswInitResult := by
  unfold Obligations.GswInitResult
  intro start len s
  have habsent : ∀ i, (gswDevOf (emptyGsw s.gsw) i).present = false := emptyGsw_absent s.gsw
  exact ⟨_, rfl, rfl, rfl, (gswCount_eq_zero _).2 habsent, habsent⟩

/-- Settles O37: no ID of the emptied table is present. -/
theorem gswClearResult : Obligations.GswClearResult := by
  unfold Obligations.GswClearResult
  intro s
  have habsent : ∀ i, (gswDevOf (emptyGsw s.gsw) i).present = false := emptyGsw_absent s.gsw
  exact ⟨_, rfl, rfl, rfl, (gswCount_eq_zero _).2 habsent, habsent⟩

/-! ### GSW_ADD, GSW_REMOVE and GSW_CHANGE (R100 to R102) -/

/-- Settles O34: the three checks in their order, then the payload stored for an ID that joins the table. -/
theorem gswAddResult : Obligations.GswAddResult := by
  unfold Obligations.GswAddResult
  intro id n s
  have hvalid : id.toNat ≤ 0xFC → validId id = true := fun h => decide_eq_true h
  have hexec : exec (.gswAdd id n) s = .next
      (if validId id = false then finish .invalidId s
       else if gswPresent s.gsw id then finish .duplicateId s
       else if n.toNat > s.gsw.len.toNat then finish .payloadTooLong s
       else finish .success { s with gsw := storePayload id (paramBytes s n) s.gsw }) := rfl
  rw [hexec]
  refine ⟨fun hhigh => ?_, fun hlow hpresent => ?_, fun hlow habsent hlong => ?_, fun hlow habsent hfits => ?_⟩
  · rw [if_pos (show validId id = false from decide_eq_false (Nat.not_le.2 hhigh))]
    rfl
  · rw [if_neg (by simp [hvalid hlow]), if_pos ((gswPresent_iff _ _).2 hpresent)]
    rfl
  · rw [if_neg (by simp [hvalid hlow]), if_neg (by simp [gswPresent_iff, habsent]), if_pos hlong]
    rfl
  · rw [if_neg (by simp [hvalid hlow]), if_neg (by simp [gswPresent_iff, habsent]), if_neg (Nat.not_lt.2 hfits)]
    have hpresent := storePayload_present (hvalid hlow) (paramBytes s n) s.gsw
    have hothers := fun j => gswDevOf_storePayload_other (hvalid hlow) (paramBytes s n) s.gsw (j := j)
    exact ⟨_, rfl, rfl, storePayload_eq _ _ _, hpresent, slotBytes_storePayload_paramBytes (hvalid hlow) hfits,
      gswCount_of_joins habsent hpresent hothers, hothers⟩

/-- Settles O35: seen from the table that is left, the removed ID had joined it. -/
theorem gswRemoveResult : Obligations.GswRemoveResult := by
  unfold Obligations.GswRemoveResult
  intro id s
  have hexec : exec (.gswRemove id) s = .next
      (if gswPresent s.gsw id = false then finish .notFound s
       else finish .success { s with gsw := removeGsw id s.gsw }) := rfl
  rw [hexec]
  refine ⟨fun hfail => ?_, fun hpresent => ?_⟩
  · rw [if_pos ((gswPresent_eq_false_iff _ _).2 hfail)]
    rfl
  · rw [if_neg (by simp [(gswPresent_iff _ _).2 hpresent])]
    have hdev := gswDevOf_removeGsw (lt_of_gsw_present hpresent) s.gsw
    have habsent : (gswDevOf (removeGsw id s.gsw) id.toNat).present = false := by rw [hdev, if_pos rfl]
    have hothers : ∀ j, j ≠ id.toNat → gswDevOf (removeGsw id s.gsw) j = gswDevOf s.gsw j := fun j hj => by
      rw [hdev, if_neg hj]
    have hcount : gswCount s.gsw = gswCount (removeGsw id s.gsw) + 1 :=
      gswCount_of_joins habsent hpresent fun j hj => (hothers j hj).symm
    have hphase : (removeGsw id s.gsw).phase = if gswCount s.gsw = 1 then .empty else .populated := by
      rw [removeGsw_phase, hcount]
      simp only [Nat.add_eq_right]
    exact ⟨_, rfl, rfl, removeGsw_eq _ _, habsent, hcount.symm, hphase, hothers⟩

/-- Settles O36: the two checks in their order, then the payload stored for an ID that stays in the table. -/
theorem gswChangeResult : Obligations.GswChangeResult := by
  unfold Obligations.GswChangeResult
  intro id n s
  have hexec : exec (.gswChange id n) s = .next
      (if gswPresent s.gsw id = false then finish .notFound s
       else if n.toNat > s.gsw.len.toNat then finish .payloadTooLong s
       else finish .success { s with gsw := storePayload id (paramBytes s n) s.gsw }) := rfl
  rw [hexec]
  refine ⟨fun hfail => ?_, fun hpresent hlong => ?_, fun hpresent hfits => ?_⟩
  · rw [if_pos ((gswPresent_eq_false_iff _ _).2 hfail)]
    rfl
  · rw [if_neg (by simp [(gswPresent_iff _ _).2 hpresent]), if_pos hlong]
    rfl
  · rw [if_neg (by simp [(gswPresent_iff _ _).2 hpresent]), if_neg (Nat.not_lt.2 hfits)]
    have hid : validId id = true := (validId_iff id).2 (lt_of_gsw_present hpresent)
    have hstays := storePayload_present hid (paramBytes s n) s.gsw
    have hothers := fun j => gswDevOf_storePayload_other hid (paramBytes s n) s.gsw (j := j)
    have hids : gswIds (storePayload id (paramBytes s n) s.gsw) = gswIds s.gsw := gswIds_congr fun j => by
      by_cases hj : j = id.toNat
      · rw [hj, hstays, hpresent]
      · rw [hothers j hj]
    exact ⟨_, rfl, rfl, storePayload_eq _ _ _, hstays, slotBytes_storePayload_paramBytes hid hfits,
      congrArg List.length hids, hothers⟩

/-! ### The rebuild (R104) -/

/-- FLAT after the rebuild that DIRTY asks for (R104, R105). -/
def rebuiltFlat (g : Gsw) : List Byte := if g.dirty then gswFlatten g else g.flat

/-- The engine after the rebuild that DIRTY asks for (R104, R105). -/
theorem rebuildGsw_eq_rebuiltFlat (g : Gsw) : rebuildGsw g = { g with flat := rebuiltFlat g, dirty := false } := by
  unfold rebuildGsw rebuiltFlat
  split
  · rfl
  · rename_i hclean
    rw [← Bool.eq_false_of_not_eq_true hclean]

/-- An engine with DIRTY clear is not rebuilt (R105). -/
theorem rebuildGsw_of_clean {g : Gsw} (h : g.dirty = false) : rebuildGsw g = g := if_neg (by simp [h])

/-- In a sequence of blocks of one length, the k-th block starts at k times the length. -/
theorem take_drop_flatMap {α β : Type} {f : α → List β} {n : Nat} (hf : ∀ a, (f a).length = n) (l : List α) {k : Nat}
    (hk : k < l.length) : ((l.flatMap f).drop (k * n)).take n = f l[k] := by
  induction l generalizing k with
  | nil => cases hk
  | cons a l ih =>
    rw [List.flatMap_cons]
    cases k with
    | zero =>
      rw [Nat.zero_mul, List.drop_zero, ← hf a, List.take_left]
      rfl
    | succ k =>
      rw [Nat.succ_mul, Nat.add_comm, ← List.drop_drop, ← hf a, List.drop_left, hf a]
      exact ih (Nat.lt_of_succ_lt_succ hk)

/-- FLAT has a record of L + 1 bytes for each present ID (R104). -/
theorem gswFlatten_length (g : Gsw) : (gswFlatten g).length = gswCount g * (g.len.toNat + 1) := by
  have h := length_flatten_records (len := g.len.toNat)
    (rs := (gswIds g).map fun i => (BitVec.ofNat 8 i, slotBytes i (gswDevOf g i).slot g.len.toNat))
    (by simp)
  rwa [List.map_map, List.length_map] at h

/-- Settles O38: the list is that of the present IDs, and FLAT's k-th block is the k-th ID's record. -/
theorem gswRebuildListsOneRecordPerId : Obligations.GswRebuildListsOneRecordPerId := by
  unfold Obligations.GswRebuildListsOneRecordPerId
  intro g hdirty
  have hrebuilt : rebuildGsw g = { g with flat := gswFlatten g, dirty := false } := if_pos hdirty
  rw [hrebuilt]
  exact ⟨rfl, gswFlatten_length g, gswIds g, gswIds_ascending g, mem_gswIds_iff g, rfl,
    fun k hk => take_drop_flatMap (by simp) (gswIds g) hk⟩

/-! ### GSW_TRANSMIT (R105, R106) -/

theorem exec_gswTransmit (s : State) : exec .gswTransmit s = .next
    (if gswCount s.gsw = 0 then finish .notAvailable s
     else if s.busy then finish .portBusy s
     else transmitGsw s) := rfl

theorem gswFrame_rebuildGsw (g : Gsw) :
    gswFrame (rebuildGsw g) = buildFrame 0xFE 0x83 (g.start :: g.len :: rebuiltFlat g) := by
  rw [rebuildGsw_eq_rebuiltFlat]
  rfl

/-- No frame is built, and none is sent (R105). -/
theorem transmitGsw_of_no_frame {s : State} (h : gswFrame (rebuildGsw s.gsw) = none) :
    transmitGsw s = finish .txError (clearFrame { s with gsw := rebuildGsw s.gsw }) := by
  unfold transmitGsw
  simp only [h]

/-- A frame is built and sent; the code and PHASE follow the transport's outcome (R105). -/
theorem transmitGsw_of_frame {s : State} {f : List Byte} (h : gswFrame (rebuildGsw s.gsw) = some f) :
    transmitGsw s = finish (if nextOutcome f s = .full then .success else .txFail)
      (release (sendFrame .codec f (loadFrame f
        { s with gsw := { rebuildGsw s.gsw with
            phase := if nextOutcome f s = .full then .transmitted else (rebuildGsw s.gsw).phase } }))) := by
  unfold transmitGsw
  simp only [h]
  by_cases hfull : nextOutcome f s = .full
  · rw [if_neg (not_not_intro hfull), if_pos hfull, if_pos hfull]
    rfl
  · rw [if_pos hfull, if_neg hfull, if_neg hfull]

/-- Settles O39: the checks in their order, then whether the frame is built, by `transmitGsw_of_no_frame` and
`transmitGsw_of_frame`. -/
theorem gswTransmitResult : Obligations.GswTransmitResult := by
  unfold Obligations.GswTransmitResult
  intro s
  rw [exec_gswTransmit]
  refine ⟨fun hempty => ?_, fun hcount hbusy => ?_, fun hcount hfree => ?_⟩
  · rw [if_pos hempty]
    rfl
  · rw [if_neg hcount, if_pos hbusy]
    rfl
  · rw [if_neg hcount, if_neg (show ¬ s.busy = true by simp [hfree])]
    have hframe := gswFrame_rebuildGsw s.gsw
    refine ⟨fun hlong => ?_, fun hfits => ?_⟩
    · have hnone : gswFrame (rebuildGsw s.gsw) = none := by
        rw [hframe, buildFrame_eq_none]
        simp only [rebuiltFlat, List.length_cons, Config.maxParams]
        omega
      rw [transmitGsw_of_no_frame hnone, rebuildGsw_eq_rebuiltFlat]
      rfl
    · obtain ⟨f, hbuild⟩ : ∃ f, buildFrame 0xFE 0x83 (s.gsw.start :: s.gsw.len :: rebuiltFlat s.gsw) = some f := by
        refine exists_buildFrame _ _ ?_
        simp only [rebuiltFlat, List.length_cons, Config.maxParams]
        omega
      rw [transmitGsw_of_frame (hframe.trans hbuild), rebuildGsw_eq_rebuiltFlat]
      have hlength : f.length ≤ 255 := (buildFrame_bounds hbuild).2.trans (by decide)
      refine ⟨f, _, hbuild, rfl, ?_, txFrame_loadFrame f _ hlength, byteOf_loadFrame f _⟩
      simp only [hfree]
      rfl

/-- A transmit that succeeds sent its frame in full and left the engine rebuilt (R105). -/
theorem transmitGsw_success {s : State} (hcode : (transmitGsw s).code = .success) :
    ∃ f, gswFrame (rebuildGsw s.gsw) = some f ∧ (transmitGsw s).transport.log = s.transport.log ++ [(f, .full)] ∧
      (transmitGsw s).gsw = { rebuildGsw s.gsw with phase := .transmitted } := by
  cases hframe : gswFrame (rebuildGsw s.gsw) with
  | none =>
    rw [transmitGsw_of_no_frame hframe] at hcode
    cases hcode
  | some f =>
    rw [transmitGsw_of_frame hframe] at hcode ⊢
    have hfull : nextOutcome f s = .full := by
      by_contra hnot
      rw [if_neg hnot] at hcode
      cases hcode
    refine ⟨f, rfl, ?_, ?_⟩
    · show s.transport.log ++ [(f, nextOutcome f s)] = _
      rw [hfull]
    · rw [if_pos hfull, if_pos hfull]
      rfl

/-- GSW_TRANSMIT succeeds only past its checks (R105). -/
theorem exec_gswTransmit_success {s t : State} (h : exec .gswTransmit s = .next t) (hcode : t.code = .success) :
    ∃ f, gswFrame (rebuildGsw s.gsw) = some f ∧ t.transport.log = s.transport.log ++ [(f, .full)] ∧
      t.gsw = { rebuildGsw s.gsw with phase := .transmitted } := by
  obtain rfl := Host.Outcome.next.inj ((exec_gswTransmit s).symm.trans h)
  split_ifs at hcode ⊢
  · cases hcode
  · cases hcode
  · exact transmitGsw_success hcode

/-- Settles O40: the first transmit left DIRTY clear, so that the second sends the frame of the same START, L and FLAT. -/
theorem gswTransmitTwiceSendsTheSame : Obligations.GswTransmitTwiceSendsTheSame := by
  unfold Obligations.GswTransmitTwiceSendsTheSame
  intro s t u v hfirst hfirstCode hengine hsecond hsecondCode
  obtain ⟨f, hf, hlog, hleft⟩ := exec_gswTransmit_success hfirst hfirstCode
  obtain ⟨f', hf', hlog', -⟩ := exec_gswTransmit_success hsecond hsecondCode
  have hkept : u.gsw = { rebuildGsw s.gsw with phase := u.gsw.phase } := by rw [hengine, hleft]
  have hclean : u.gsw.dirty = false := by rw [hkept, rebuildGsw_eq_rebuiltFlat]
  have hsame : gswFrame (rebuildGsw u.gsw) = gswFrame (rebuildGsw s.gsw) := by
    rw [rebuildGsw_of_clean hclean, hkept]
    rfl
  obtain rfl : f = f' := Option.some.inj (hf.symm.trans (hsame.symm.trans hf'))
  exact ⟨f, hlog, hlog'⟩

end Sys2Proof.Machine
end

section
/-! SUPPORT and the statements O41 to O47, O52 and O53. The group-sync-read engine's commands: what each update of the table
leaves of the engine and of the count of its IDs, the IDs of FLAT, the request, the launch of GSR_RX, and the queries. -/

namespace Sys2Proof.Machine

/-! ### The present IDs and their count (R25, R34) -/

theorem mem_gsrIds_iff (g : Gsr) (i : Nat) : i ∈ gsrIds g ↔ (gsrDevOf g i).present = true :=
  (mem_gsrIds g i).trans ⟨And.right, fun h => ⟨lt_of_gsr_present h, h⟩⟩

theorem gsrIds_nodup (g : Gsr) : (gsrIds g).Nodup := (gsrIds_ascending g).imp Nat.ne_of_lt

/-- Where only `i` joins the set, the IDs are `i` and those before, in some order. -/
theorem gsrCount_of_joins {g h : Gsr} {i : Nat} (hg : (gsrDevOf g i).present = false) (hh : (gsrDevOf h i).present = true)
    (hrest : ∀ j, j ≠ i → gsrDevOf h j = gsrDevOf g j) : gsrCount h = gsrCount g + 1 := by
  have hmem : ∀ j, j ∈ gsrIds h ↔ j ∈ i :: gsrIds g := fun j => by
    by_cases hj : j = i
    · simp [mem_gsrIds_iff, hj, hh]
    · simp [mem_gsrIds_iff, hj, hrest j hj]
  have hnodup : (i :: gsrIds g).Nodup := List.nodup_cons.2 ⟨by simp [mem_gsrIds_iff, hg], gsrIds_nodup g⟩
  exact ((List.perm_ext_iff_of_nodup (gsrIds_nodup h) hnodup).2 hmem).length_eq

/-- An ID above 0xFC is absent as the rules test it (R110, R119, R121). -/
theorem gsrPresent_eq_false_iff (g : Gsr) (id : Byte) :
    gsrPresent g id = false ↔ 0xFC < id.toNat ∨ (gsrDevOf g id.toNat).present = false := by
  rw [← Bool.not_eq_true, gsrPresent_iff, Bool.not_eq_true]
  refine ⟨.inr, fun h => h.elim (fun hhigh => ?_) fun habsent => habsent⟩
  rw [gsrDevOf_of_not_lt g (by simp only [Config.idSlots]; omega)]
  rfl

/-! ### GSR_INIT and GSR_CLEAR (R108, R111) -/

/-- The engine GSR_INIT leaves (R108). -/
def initGsr (start len : Byte) (g : Gsr) : Gsr :=
  { start := start, len := len,
    devs := mapEntries (fun _ d => { d with present := false, valid := false, idres := .notAvailable, iderr := 0 }) g.devs,
    phase := .empty, dirty := true, lastOk := false, flat := [] }

theorem exec_gsrInit (start len : Byte) (s : State) : exec (.gsrInit start len) s = .next
    (if s.gsr.phase = .txSent then finish .portBusy s
     else finish .success { s with gsr := initGsr start len s.gsr }) := rfl

/-- Every entry after GSR_INIT, also that of an ID the table does not have. -/
theorem gsrDevOf_initGsr (start len : Byte) (g : Gsr) (j : Nat) :
    gsrDevOf (initGsr start len g) j =
      { gsrDevOf g j with present := false, valid := false, idres := .notAvailable, iderr := 0 } :=
  gsrDevOf_map_property (h := initGsr start len g) rfl
    (P := fun d d' => d' = { d with present := false, valid := false, idres := .notAvailable, iderr := 0 })
    (fun _ => rfl) rfl j

/-- The engine GSR_CLEAR leaves (R111). -/
def clearGsr (g : Gsr) : Gsr :=
  { g with
    devs := mapEntries (fun _ d => { d with present := false, valid := false }) g.devs, dirty := true, phase := .empty }

theorem exec_gsrClear (s : State) : exec .gsrClear s = .next
    (if s.gsr.phase = .txSent then finish .portBusy s
     else finish .success { s with gsr := clearGsr s.gsr }) := rfl

/-- Every entry after GSR_CLEAR, also that of an ID the table does not have. -/
theorem gsrDevOf_clearGsr (g : Gsr) (j : Nat) :
    gsrDevOf (clearGsr g) j = { gsrDevOf g j with present := false, valid := false } :=
  gsrDevOf_map_property (h := clearGsr g) rfl (P := fun d d' => d' = { d with present := false, valid := false })
    (fun _ => rfl) rfl j

/-- Settles O41: the emptied table by `gsrDevOf_initGsr`. -/
theorem gsrInitResult : Obligations.GsrInitResult := by
  unfold Obligations.GsrInitResult
  intro start len s
  rw [exec_gsrInit]
  refine ⟨fun hsent => ?_, fun hopen => ?_⟩
  · rw [if_pos hsent]
    rfl
  · rw [if_neg hopen]
    have hdev := gsrDevOf_initGsr start len s.gsr
    exact ⟨_, rfl, rfl, rfl, (gsrCount_eq_zero _).2 fun j => congrArg GsrDev.present (hdev j),
      fun j => ⟨congrArg _ (hdev j), congrArg _ (hdev j), congrArg _ (hdev j), congrArg _ (hdev j)⟩⟩

/-- Settles O44: the emptied table by `gsrDevOf_clearGsr`. -/
theorem gsrClearResult : Obligations.GsrClearResult := by
  unfold Obligations.GsrClearResult
  intro s
  rw [exec_gsrClear]
  refine ⟨fun hsent => ?_, fun hopen => ?_⟩
  · rw [if_pos hsent]
    rfl
  · rw [if_neg hopen]
    have hdev := gsrDevOf_clearGsr s.gsr
    exact ⟨_, rfl, rfl, rfl, (gsrCount_eq_zero _).2 fun j => congrArg GsrDev.present (hdev j), hdev⟩

/-! ### GSR_ADD and GSR_REMOVE (R109, R110) -/

theorem exec_gsrAdd (id : Byte) (s : State) : exec (.gsrAdd id) s = .next
    (if s.gsr.phase = .txSent then finish .portBusy s
     else if validId id = false then finish .invalidId s
     else if gsrPresent s.gsr id then finish .duplicateId s
     else finish .success { s with gsr := addGsr id s.gsr }) := rfl

theorem exec_gsrRemove (id : Byte) (s : State) : exec (.gsrRemove id) s = .next
    (if s.gsr.phase = .txSent then finish .portBusy s
     else if gsrPresent s.gsr id = false then finish .notFound s
     else finish .success { s with gsr := removeGsr id s.gsr }) := rfl

theorem putGsrDev_eq (i : Nat) (d : GsrDev) (g : Gsr) : putGsrDev i d g = { g with devs := (putGsrDev i d g).devs } := by
  unfold putGsrDev; split <;> rfl

/-- An added ID changes the table, PHASE and DIRTY (R109). -/
theorem addGsr_eq (id : Byte) (g : Gsr) :
    addGsr id g = { g with devs := (addGsr id g).devs, phase := .populated, dirty := true } :=
  congrArg (fun h : Gsr => { h with phase := .populated, dirty := true }) (putGsrDev_eq id.toNat _ g)

/-- A removal changes the table, PHASE and DIRTY (R110). -/
theorem removeGsr_eq (id : Byte) (g : Gsr) :
    removeGsr id g = { g with devs := (removeGsr id g).devs, phase := (removeGsr id g).phase, dirty := true } :=
  congrArg (fun h : Gsr => { h with phase := (removeGsr id g).phase, dirty := true }) (putGsrDev_eq id.toNat _ g)

/-- PHASE after a removal follows the count it leaves (R110). -/
theorem removeGsr_phase (id : Byte) (g : Gsr) :
    (removeGsr id g).phase = if gsrCount (removeGsr id g) = 0 then .empty else .populated := rfl

/-- The slot window of an added ID is zeroed (R109). -/
theorem slotBytes_zeroed (id n : Nat) (slot : List Byte) :
    slotBytes id (writeSlot (List.replicate n 0) slot) n = List.replicate n 0 := by
  simpa using slotBytes_writeSlot id (List.replicate n 0) slot

/-- Settles O42: the three checks in their order, then an ID that joins the set with a zeroed slot. -/
theorem gsrAddResult : Obligations.GsrAddResult := by
  unfold Obligations.GsrAddResult
  intro id s
  rw [exec_gsrAdd]
  refine ⟨fun hsent => ?_, fun hopen hhigh => ?_, fun hopen hpresent => ?_, fun hopen hlow habsent => ?_⟩
  · rw [if_pos hsent]
    rfl
  · rw [if_neg hopen, if_pos (show validId id = false from decide_eq_false (Nat.not_le.2 hhigh))]
    rfl
  · have hvalid : validId id = true := (validId_iff id).2 (lt_of_gsr_present hpresent)
    rw [if_neg hopen, if_neg (by simp [hvalid]), if_pos ((gsrPresent_iff _ _).2 hpresent)]
    rfl
  · have hvalid : validId id = true := decide_eq_true hlow
    rw [if_neg hopen, if_neg (by simp [hvalid]), if_neg (by simp [gsrPresent_iff, habsent])]
    have hdev := gsrDevOf_addGsr hvalid s.gsr
    have hadded := (hdev id.toNat).trans (if_pos rfl)
    have hothers : ∀ j, j ≠ id.toNat → gsrDevOf (addGsr id s.gsr) j = gsrDevOf s.gsr j := fun j hj =>
      (hdev j).trans (if_neg hj)
    refine ⟨_, rfl, rfl, addGsr_eq id s.gsr, ?_, ?_, gsrCount_of_joins habsent (congrArg _ hadded) hothers, hothers⟩
    · exact hadded.trans (by rw [finish_gsr, hadded])
    · rw [finish_gsr, hadded]
      exact slotBytes_zeroed _ _ _

/-- Settles O43: seen from the set that is left, the removed ID had joined it. -/
theorem gsrRemoveResult : Obligations.GsrRemoveResult := by
  unfold Obligations.GsrRemoveResult
  intro id s
  rw [exec_gsrRemove]
  refine ⟨fun hsent => ?_, fun hopen hfail => ?_, fun hopen hpresent => ?_⟩
  · rw [if_pos hsent]
    rfl
  · rw [if_neg hopen, if_pos ((gsrPresent_eq_false_iff _ _).2 hfail)]
    rfl
  · rw [if_neg hopen, if_neg (by simp [(gsrPresent_iff _ _).2 hpresent])]
    have hdev := gsrDevOf_removeGsr (lt_of_gsr_present hpresent) s.gsr
    have hremoved := (hdev id.toNat).trans (if_pos rfl)
    have hothers : ∀ j, j ≠ id.toNat → gsrDevOf (removeGsr id s.gsr) j = gsrDevOf s.gsr j := fun j hj =>
      (hdev j).trans (if_neg hj)
    have hcount : gsrCount s.gsr = gsrCount (removeGsr id s.gsr) + 1 :=
      gsrCount_of_joins (congrArg GsrDev.present hremoved) hpresent fun j hj => (hothers j hj).symm
    have hphase : (removeGsr id s.gsr).phase = if gsrCount s.gsr = 1 then .empty else .populated := by
      rw [removeGsr_phase, hcount]
      simp only [Nat.add_eq_right]
    exact ⟨_, rfl, rfl, removeGsr_eq id s.gsr, hremoved, hcount.symm, hphase, hothers⟩

/-! ### The rebuild (R112) -/

/-- FLAT as numbers is the list of the present IDs: each fits a byte. -/
theorem gsrFlatten_map_toNat (g : Gsr) : (gsrFlatten g).map BitVec.toNat = gsrIds g := by
  rw [gsrFlatten, List.map_map]
  refine (List.map_congr_left fun i hi => ?_).trans (List.map_id _)
  obtain ⟨hlt, -⟩ := (mem_gsrIds g i).1 hi
  simp only [Config.idSlots] at hlt
  simp only [Function.comp_apply, BitVec.toNat_ofNat, id]
  omega

/-- Settles O45: FLAT is the list of the present IDs by `gsrFlatten_map_toNat`. -/
theorem gsrRebuildListsThePresentIds : Obligations.GsrRebuildListsThePresentIds := by
  unfold Obligations.GsrRebuildListsThePresentIds
  intro g hdirty
  have hrebuilt : rebuildGsr g = { g with flat := gsrFlatten g, dirty := false } := if_pos hdirty
  rw [hrebuilt]
  refine ⟨rfl, List.length_map _, ?_, fun id => ?_⟩
  · rw [gsrFlatten_map_toNat]
    exact gsrIds_ascending g
  · rw [← mem_gsrIds_iff, ← gsrFlatten_map_toNat, List.mem_map_of_injective BitVec.toNat_injective]

/-! ### GSR_TXREQ (R113) -/

theorem exec_gsrTxreq (s : State) : exec .gsrTxreq s = .next
    (if gsrCount s.gsr = 0 then finish .notAvailable s
     else if s.busy then finish .portBusy s
     else requestGsr s) := rfl

/-- FLAT after the rebuild that DIRTY asks for (R112, R113). -/
def gsrRebuiltFlat (g : Gsr) : List Byte := if g.dirty then gsrFlatten g else g.flat

/-- The engine after the rebuild that DIRTY asks for (R112, R113). -/
theorem rebuildGsr_eq_rebuiltFlat (g : Gsr) : rebuildGsr g = { g with flat := gsrRebuiltFlat g, dirty := false } := by
  unfold rebuildGsr gsrRebuiltFlat
  split
  · rfl
  · rename_i hclean
    rw [← Bool.eq_false_of_not_eq_true hclean]

theorem gsrFrame_rebuildGsr (g : Gsr) :
    gsrFrame (rebuildGsr g) = buildFrame 0xFE 0x82 (g.start :: g.len :: gsrRebuiltFlat g) := by
  rw [rebuildGsr_eq_rebuiltFlat]
  rfl

theorem gsrExpected_rebuildGsr (g : Gsr) : gsrExpected (rebuildGsr g) = gsrCount g * (g.len.toNat + 6) := by
  rw [rebuildGsr_eq_rebuiltFlat]
  rfl

/-- Every entry after a request went out, also that of an ID the table does not have (R113). -/
theorem gsrDevOf_markRequested (g : Gsr) (j : Nat) :
    gsrDevOf (markRequested g) j =
      if (gsrDevOf g j).present then { gsrDevOf g j with valid := false, idres := .notAvailable } else gsrDevOf g j :=
  gsrDevOf_map_property (h := markRequested g) rfl
    (P := fun d d' => d' = if d.present then { d with valid := false, idres := .notAvailable } else d) (fun _ => rfl) rfl j

/-- Without a frame, or without room for the replies, nothing is sent (R113). -/
theorem requestGsr_of_no_request {s : State}
    (h : gsrFrame (rebuildGsr s.gsr) = none ∨ Config.rxCap < gsrExpected (rebuildGsr s.gsr)) :
    requestGsr s = finish .txError (clearFrame { s with gsr := rebuildGsr s.gsr }) := by
  unfold requestGsr
  cases hframe : gsrFrame (rebuildGsr s.gsr) with
  | none => simp only [hframe]
  | some f =>
    have hroom := h.resolve_left (by simp [hframe])
    simp only [hframe, if_pos ((fitsRxCap_false_iff _).2 hroom)]

/-- A frame is built and sent; what follows is the transport's outcome (R113). -/
theorem requestGsr_of_frame {s : State} {f : List Byte} (hframe : gsrFrame (rebuildGsr s.gsr) = some f)
    (hroom : gsrExpected (rebuildGsr s.gsr) ≤ Config.rxCap) :
    requestGsr s =
      if nextOutcome f s = .full then
        finish .success (sendFrame .gsr f (loadFrame f { s with gsr := markRequested (rebuildGsr s.gsr) }))
      else finish .txFail (release (sendFrame .gsr f (loadFrame f { s with gsr := rebuildGsr s.gsr }))) := by
  have hfits := (fitsRxCap_iff _).2 hroom
  unfold requestGsr
  simp only [hframe, hfits, Bool.true_eq_false, if_false, ne_eq, ite_not]
  rfl

/-- Settles O46: the checks in their order, then whether a request can be made, by `requestGsr_of_no_request` and
`requestGsr_of_frame`. -/
theorem gsrTxreqResult : Obligations.GsrTxreqResult := by
  unfold Obligations.GsrTxreqResult
  intro s
  rw [exec_gsrTxreq]
  refine ⟨fun hempty => ?_, fun hcount hbusy => ?_, fun hcount hfree => ?_⟩
  · rw [if_pos hempty]
    rfl
  · rw [if_neg hcount, if_pos hbusy]
    rfl
  · rw [if_neg hcount, if_neg (show ¬ s.busy = true by simp [hfree])]
    have hframe := gsrFrame_rebuildGsr s.gsr
    have hexpected := gsrExpected_rebuildGsr s.gsr
    refine ⟨fun hfail => ?_, fun hfits hroom => ?_⟩
    · rw [requestGsr_of_no_request, rebuildGsr_eq_rebuiltFlat]
      · rfl
      · rw [hframe, buildFrame_eq_none, hexpected]
        refine hfail.imp_left fun hlong => ?_
        simp only [gsrRebuiltFlat, List.length_cons, Config.maxParams]
        omega
    · obtain ⟨f, hbuild⟩ : ∃ f, buildFrame 0xFE 0x82 (s.gsr.start :: s.gsr.len :: gsrRebuiltFlat s.gsr) = some f := by
        refine exists_buildFrame _ _ ?_
        simp only [gsrRebuiltFlat, List.length_cons, Config.maxParams]
        omega
      have hlength : f.length ≤ 255 := (buildFrame_bounds hbuild).2.trans (by decide)
      rw [requestGsr_of_frame (hframe.trans hbuild) (hexpected.trans_le hroom), rebuildGsr_eq_rebuiltFlat]
      by_cases hfull : nextOutcome f s = .full
      · rw [if_pos hfull]
        refine ⟨f, _, hbuild, rfl, ?_, txFrame_loadFrame f _ hlength, byteOf_loadFrame f _, fun h => absurd hfull h,
          fun _ => ⟨rfl, gsrDevOf_markRequested _⟩⟩
        rw [if_pos hfull, if_pos hfull, decide_eq_true hfull]
        rfl
      · rw [if_neg hfull]
        refine ⟨f, _, hbuild, rfl, ?_, txFrame_loadFrame f _ hlength, byteOf_loadFrame f _, fun _ => rfl,
          fun h => absurd h hfull⟩
        rw [if_neg hfull, if_neg hfull, decide_eq_false hfull]
        rfl

/-! ### The launch of GSR_RX (R114) -/

/-- Settles O47: the engine expects a reply of L + 6 bytes for each ID. -/
theorem gsrRxLaunch : Obligations.GsrRxLaunch := by
  unfold Obligations.GsrRxLaunch
  intro s
  have hexec : exec .gsrRx s = .next
      (if s.gsr.phase ≠ .txSent then finish .notAvailable s
       else startReceive (.gsrRx (gsrExpected s.gsr)) { s with gsr := { s.gsr with phase := .rxPending } }) := rfl
  rw [hexec]
  refine ⟨fun hnone => ?_, fun hsent => ?_⟩
  · rw [if_pos hnone]
    rfl
  · rw [if_neg (not_not_intro hsent)]
    rfl

/-! ### The queries (R119 to R121) -/

theorem exec_gsrIsAvailable (id address length : Byte) (s : State) : exec (.gsrIsAvailable id address length) s =
    .next (finishWith (if gsrAvailable s.gsr id address length then 1 else 0) .success s) := rfl

theorem exec_gsrGetValue (id address : Byte) (s : State) : exec (.gsrGetValue id address) s = .next
    (if gsrAvailable s.gsr id address 1 then
       finishWith
         ((slotByteOf id.toNat (gsrDevOf s.gsr id.toNat).slot (address.toNat - s.gsr.start.toNat)).zeroExtend 32)
         .success s
     else finishWith 0 .notAvailable s) := rfl

theorem exec_gsrIdResult (id : Byte) (s : State) : exec (.gsrIdResult id) s = .next
    (if gsrPresent s.gsr id = false then finishWith 0 .notFound s
     else finishWith (idResultWord (gsrDevOf s.gsr id.toNat)) .success s) := rfl

/-- The test of R119: data of a present ID, and a window that holds all the bytes asked for. -/
theorem gsrAvailable_iff (g : Gsr) (id address length : Byte) :
    gsrAvailable g id address length = true ↔
      id.toNat ≤ 0xFC ∧ (gsrDevOf g id.toNat).present = true ∧ (gsrDevOf g id.toNat).valid = true ∧ 1 ≤ length.toNat ∧
        g.start.toNat ≤ address.toNat ∧ address.toNat + length.toNat ≤ g.start.toNat + g.len.toNat := by
  simp only [gsrAvailable, gsrPresent, validId, Bool.and_eq_true, decide_eq_true_eq, and_assoc]

/-- The bytes of a slot window, one by one (R120). -/
theorem slotBytes_getElem? (id : Nat) (slot : List Byte) {len j : Nat} (hj : j < len) :
    (slotBytes id slot len)[j]? = some (slotByteOf id slot j) := by
  simp [slotBytes, slotByteOf, hj]

/-- Settles O52: both queries ask `gsrAvailable_iff`, and an available byte lies in the slot window. -/
theorem gsrQueryResults : Obligations.GsrQueryResults := by
  unfold Obligations.GsrQueryResults
  intro id address length s available
  have hlength : gsrAvailable s.gsr id address length = true ↔ available length.toNat :=
    gsrAvailable_iff s.gsr id address length
  have hone : gsrAvailable s.gsr id address 1 = true ↔ available 1 := gsrAvailable_iff s.gsr id address 1
  rw [exec_gsrIsAvailable, exec_gsrGetValue]
  refine ⟨fun hyes => ?_, fun hno => ?_, fun hyes => ?_, fun hno => ?_⟩
  · rw [if_pos (hlength.2 hyes)]
    rfl
  · rw [if_neg (mt hlength.1 hno)]
    rfl
  · rw [if_pos (hone.2 hyes)]
    obtain ⟨-, -, -, -, hlow, hhigh⟩ := hyes
    exact ⟨_, slotBytes_getElem? _ _ (by omega), rfl⟩
  · rw [if_neg (mt hone.1 hno)]
    rfl

theorem idResultWord_toNat (d : GsrDev) :
    (idResultWord d).toNat = (codeByte d.idres).toNat + 2 ^ 8 * d.iderr.toNat + 2 ^ 16 * d.valid.toNat := by
  simp only [idResultWord, toNat_append_eq_add, flagBit_toNat, BitVec.toNat_ofNat]
  omega

/-- Settles O53: RESULT is the sum of its fields by `idResultWord_toNat`. -/
theorem gsrIdResultResult : Obligations.GsrIdResultResult := by
  unfold Obligations.GsrIdResultResult
  intro id s
  rw [exec_gsrIdResult]
  refine ⟨fun hfail => ?_, fun hpresent => ?_⟩
  · rw [if_pos ((gsrPresent_eq_false_iff _ _).2 hfail)]
    rfl
  · rw [if_neg (by simp [(gsrPresent_iff _ _).2 hpresent])]
    exact ⟨_, rfl, idResultWord_toNat _⟩

end Sys2Proof.Machine
end

section
/-! SUPPORT and the statements O48 to O51. The end of GSR_RX: what the search for one ID's frame answers by its first scan, the
entries and the overall code that the demultiplexer leaves, and the steps that lead to it. -/

namespace Sys2Proof.Machine

section
variable {b : List Byte} {x len : Byte} {cause : EndCause} {failed : Bool} {n i : Nat} {p : Packet}

/-! ### The search for one ID's frame (R116) -/

/-- The scan rejects the candidate at `i`: a failed one, or a frame of another parameter count. -/
def Rejected (b : List Byte) (x len : Byte) (i : Nat) : Prop :=
  scan b false x = .failed i ∨ ∃ p, scan b false x = .packet i p ∧ p.params.length ≠ len.toNat

/-- The scan finds no whole candidate. -/
def Missing (b : List Byte) (x : Byte) : Prop :=
  ∃ i, scan b false x = .incomplete i ∨ scan b false x = .noHeader i

/-- All that the first scan can answer: the frame asked for, no frame, or a rejected candidate. -/
theorem search_cases (b : List Byte) (x len : Byte) :
    (∃ i p, scan b false x = .packet i p ∧ p.params.length = len.toNat) ∨ Missing b x ∨ ∃ i, Rejected b x len i := by
  cases h : scan b false x with
  | packet i p =>
    by_cases hp : p.params.length = len.toNat
    · exact .inl ⟨i, p, rfl, hp⟩
    · exact .inr (.inr ⟨i, .inr ⟨p, h, hp⟩⟩)
  | failed i => exact .inr (.inr ⟨i, .inl h⟩)
  | incomplete i => exact .inr (.inl ⟨i, .inl h⟩)
  | noHeader i => exact .inr (.inl ⟨i, .inr h⟩)

/-- The rejected candidate lies in the bytes. -/
theorem Rejected.lt (h : Rejected b x len i) : i < b.length := by
  rcases scan_cases b false x with hs | ⟨j, hj, hs⟩ | ⟨j, -, hs, -⟩ | ⟨j, p, hs, -, -, hj, -⟩ <;>
    rcases h with h | ⟨q, h, -⟩ <;> rw [hs] at h <;> cases h
  · exact hj
  · omega

/-! One pass of the loop for each of them. -/

theorem demuxLoop_of_packet (hs : scan b false x = .packet i p) (hp : p.params.length = len.toNat) :
    demuxLoop x len cause (n + 1) failed b = .ok p := by
  simp only [demuxLoop, hs, if_pos hp]

theorem demuxLoop_of_missing (h : Missing b x) :
    demuxLoop x len cause (n + 1) failed b = .error (if failed then .rxCorrupt else missingCode cause) := by
  obtain ⟨i, hs | hs⟩ := h <;> simp only [demuxLoop, hs]

theorem demuxLoop_of_rejected (h : Rejected b x len i) :
    demuxLoop x len cause (n + 1) failed b = demuxLoop x len cause n true (b.drop (i + 1)) := by
  obtain hs | ⟨p, hs, hp⟩ := h
  · simp only [demuxLoop, hs]
  · simp only [demuxLoop, hs, if_neg hp]

/-- A failed candidate before the bytes turns every failure into RxCorrupt and nothing else. -/
theorem demuxLoop_after_failure (n : Nat) (failed : Bool) (b : List Byte) :
    demuxLoop x len cause n true b = (demuxLoop x len cause n failed b).mapError fun _ => .rxCorrupt := by
  induction n generalizing failed b with
  | zero => rfl
  | succ n ih =>
    rcases search_cases b x len with ⟨i, p, hs, hp⟩ | hmissing | ⟨i, hrejected⟩
    · rw [demuxLoop_of_packet hs hp, demuxLoop_of_packet hs hp]
      rfl
    · rw [demuxLoop_of_missing hmissing, demuxLoop_of_missing hmissing]
      rfl
    · rw [demuxLoop_of_rejected hrejected, demuxLoop_of_rejected hrejected]
      exact ih true _

/-- Each pass consumes a byte, so more passes than bytes change nothing. -/
theorem demuxLoop_enough {m : Nat} (hn : b.length < n) (hm : b.length < m) :
    demuxLoop x len cause n failed b = demuxLoop x len cause m failed b := by
  induction n generalizing m failed b with
  | zero => cases hn
  | succ n ih =>
    obtain ⟨m, rfl⟩ : ∃ k, m = k + 1 := ⟨m - 1, by omega⟩
    rcases search_cases b x len with ⟨i, p, hs, hp⟩ | hmissing | ⟨i, hrejected⟩
    · rw [demuxLoop_of_packet hs hp, demuxLoop_of_packet hs hp]
    · rw [demuxLoop_of_missing hmissing, demuxLoop_of_missing hmissing]
    · rw [demuxLoop_of_rejected hrejected, demuxLoop_of_rejected hrejected]
      have hshorter : (b.drop (i + 1)).length < b.length := by
        have hi := hrejected.lt
        rw [List.length_drop]
        omega
      exact ih (by omega) (by omega)

/-! The whole search, by its first scan. -/

theorem demuxOne_of_packet (hs : scan b false x = .packet i p) (hp : p.params.length = len.toNat) :
    demuxOne b x len cause = .ok p := demuxLoop_of_packet hs hp

theorem demuxOne_of_missing (h : Missing b x) : demuxOne b x len cause = .error (missingCode cause) :=
  demuxLoop_of_missing h

/-- Behind a rejected candidate the search starts anew, with RxCorrupt for every failure. -/
theorem demuxOne_of_rejected (h : Rejected b x len i) :
    demuxOne b x len cause = (demuxOne (b.drop (i + 1)) x len cause).mapError fun _ => .rxCorrupt := by
  have hlt := h.lt
  rw [demuxOne, demuxLoop_of_rejected h, demuxLoop_after_failure _ false, demuxOne,
    demuxLoop_enough (m := (b.drop (i + 1)).length + 1) _ (Nat.lt_succ_self _)]
  rw [List.length_drop]
  omega

/-! ### The entries and the overall code (R117) -/

/-- The code the demultiplexer gives an ID. -/
def demuxCode (b : List Byte) (len : Byte) (cause : EndCause) (id : Nat) : ResultCode :=
  match demuxOne b (BitVec.ofNat 8 id) len cause with
  | .ok _ => .success
  | .error c => c

theorem demuxEntry_of_ok {id : Byte} {d : GsrDev} (hd : d.present = true) (h : demuxOne b id len cause = .ok p) :
    demuxEntry b len cause id.toNat d =
      { d with slot := writeSlot p.params d.slot, valid := true, idres := .success, iderr := p.error } := by
  simp only [demuxEntry, hd, if_true, BitVec.ofNat_toNat, BitVec.setWidth_eq, h]

theorem demuxEntry_of_error {id : Byte} {d : GsrDev} {c : ResultCode} (hd : d.present = true)
    (h : demuxOne b id len cause = .error c) :
    demuxEntry b len cause id.toNat d = { d with valid := false, idres := c } := by
  simp only [demuxEntry, hd, if_true, BitVec.ofNat_toNat, BitVec.setWidth_eq, h]

theorem demuxEntry_of_absent {id : Nat} {d : GsrDev} (hd : d.present = false) : demuxEntry b len cause id d = d :=
  if_neg (by simp [hd])

/-- The code in an ID's entry afterwards. -/
theorem demuxEntry_idres {id : Nat} {d : GsrDev} (hd : d.present = true) :
    (demuxEntry b len cause id d).idres = demuxCode b len cause id := by
  unfold demuxCode
  rcases demuxEntry_cases b len cause id d with ⟨habsent, -⟩ | ⟨-, p, h, -, he⟩ | ⟨-, c, h, -, he⟩
  · simp [hd] at habsent
  · rw [he, h]
  · rw [he, h]

/-- The ID visited last gives the overall code if it fails. -/
theorem demuxOverall_concat (ids : List Nat) (id : Nat) :
    demuxOverall b len cause (ids ++ [id]) =
      if demuxCode b len cause id = .success then demuxOverall b len cause ids else demuxCode b len cause id := by
  simp only [demuxOverall, List.foldl_append, List.foldl_cons, List.foldl_nil]
  cases h : demuxOne b (BitVec.ofNat 8 id) len cause with
  | ok p =>
    have hcode : demuxCode b len cause id = .success := by simp only [demuxCode, h]
    rw [if_pos hcode]
  | error c =>
    have hcode : demuxCode b len cause id = c := by simp only [demuxCode, h]
    rw [hcode, if_neg (demuxLoop_error _ _ _ _ h)]

/-- Of ascending IDs the highest failing one gives the overall code. -/
theorem demuxOverall_cases {ids : List Nat} (hids : ids.Pairwise (· < ·)) :
    (demuxOverall b len cause ids = .success ∧ ∀ j ∈ ids, demuxCode b len cause j = .success) ∨
    ∃ j ∈ ids, demuxOverall b len cause ids = demuxCode b len cause j ∧ demuxCode b len cause j ≠ .success ∧
      ∀ k ∈ ids, j < k → demuxCode b len cause k = .success := by
  induction ids using List.reverseRecOn with
  | nil => exact .inl ⟨rfl, nofun⟩
  | append_singleton ids id ih =>
    obtain ⟨hinit, -, hlast⟩ := List.pairwise_append.1 hids
    rw [demuxOverall_concat]
    by_cases hid : demuxCode b len cause id = .success
    · simp only [if_pos hid, List.mem_append, List.mem_singleton]
      rcases ih hinit with ⟨hcode, hall⟩ | ⟨j, hj, hcode, hfails, habove⟩
      · exact .inl ⟨hcode, fun k hk => hk.elim (hall k) fun h => h ▸ hid⟩
      · exact .inr ⟨j, .inl hj, hcode, hfails, fun k hk hlt => hk.elim (habove k · hlt) fun h => h ▸ hid⟩
    · refine .inr ⟨id, by simp, if_neg hid, hid, fun k hk hlt => ?_⟩
      rcases List.mem_append.1 hk with hk | hk
      · exact absurd (hlast k hk id List.mem_cons_self) (Nat.lt_asymm hlt)
      · exact absurd (List.mem_singleton.1 hk) (Nat.ne_of_gt hlt)

end

/-! ### What Demux leaves (R117) -/

/-- Every entry after Demux, also that of an ID the table does not have. -/
theorem gsrDevOf_demux (cause : EndCause) (s : State) (j : Nat) :
    gsrDevOf (demux cause s).gsr j = demuxEntry (rxBytes s) s.gsr.len cause j (gsrDevOf s.gsr j) := by
  by_cases hj : j < Config.idSlots
  · exact gsrDevOf_map s.gsr (demux cause s).gsr _ rfl hj
  · rw [gsrDevOf_of_not_lt _ hj, gsrDevOf_of_not_lt _ hj]
    rfl

/-- The registers Demux changes. -/
theorem demux_eq (cause : EndCause) (s : State) :
    demux cause s = { s with code := (demux cause s).code, busy := false, owner := .nobody, rxEnd := cause, active := none,
                             timer := false, gsr := (demux cause s).gsr } := rfl

/-- Of the engine Demux changes the table, and LAST_OK and PHASE as the overall code says. -/
theorem demux_gsr_eq (cause : EndCause) (s : State) :
    (demux cause s).gsr =
      { s.gsr with
        devs := (demux cause s).gsr.devs, lastOk := decide ((demux cause s).code = .success),
        phase := if (demux cause s).code = .success then .complete else .partialFailure } := rfl

/-- The overall code beside the codes of the present IDs. -/
theorem demux_code_cases (cause : EndCause) (s : State) :
    ((demux cause s).code = .success ∧
      ∀ j, (gsrDevOf s.gsr j).present = true → (gsrDevOf (demux cause s).gsr j).idres = .success) ∨
    ((demux cause s).code ≠ .success ∧
      ∃ j, (gsrDevOf s.gsr j).present = true ∧ (gsrDevOf (demux cause s).gsr j).idres = (demux cause s).code ∧
        ∀ k, j < k → (gsrDevOf s.gsr k).present = true → (gsrDevOf (demux cause s).gsr k).idres = .success) := by
  have hoverall : (demux cause s).code = demuxOverall (rxBytes s) s.gsr.len cause (gsrIds s.gsr) := rfl
  have hidres : ∀ j, (gsrDevOf s.gsr j).present = true →
      (gsrDevOf (demux cause s).gsr j).idres = demuxCode (rxBytes s) s.gsr.len cause j := fun j hj => by
    rw [gsrDevOf_demux, demuxEntry_idres hj]
  rw [hoverall]
  rcases demuxOverall_cases (b := rxBytes s) (len := s.gsr.len) (cause := cause) (gsrIds_ascending s.gsr) with
    ⟨hcode, hall⟩ | ⟨j, hj, hcode, hfails, habove⟩
  · exact .inl ⟨hcode, fun j hj => (hidres j hj).trans (hall j ((mem_gsrIds_iff _ _).2 hj))⟩
  · have hpresent := (mem_gsrIds_iff _ _).1 hj
    refine .inr ⟨by rwa [hcode], j, hpresent, by rw [hidres j hpresent, hcode], fun k hlt hk => ?_⟩
    exact (hidres k hk).trans (habove k ((mem_gsrIds_iff _ _).2 hk) hlt)

/-- Settles O51: an entry by the first scan of its ID, the overall code by `demux_code_cases`, the rest by `demux_eq`. -/
theorem demuxIsIndependentPerId : Obligations.DemuxIsIndependentPerId := by
  unfold Obligations.DemuxIsIndependentPerId
  refine ⟨fun s t cause j hb hl hd => ?_, fun s cause id => ?_, fun s cause => ⟨?_, ?_, ?_, rfl⟩,
    fun s cause => ⟨demux_eq cause s, rfl, rfl, fun _ => rfl⟩⟩
  · rw [gsrDevOf_demux, gsrDevOf_demux, hb, hl, hd]
  · dsimp only
    simp only [gsrDevOf_demux]
    refine ⟨demuxEntry_of_absent, fun hd => ⟨fun i p hs hp => ?_, fun i hs => ?_, fun i u hs hgsr hu => ?_⟩⟩
    · rw [demuxEntry_of_ok hd (demuxOne_of_packet hs hp), ← hp]
      exact ⟨rfl, slotBytes_writeSlot _ _ _⟩
    · rw [demuxEntry_of_error hd (demuxOne_of_missing ⟨i, hs⟩)]
      exact ⟨fun h => by rw [h]; rfl, fun h => by rw [h]; rfl, fun h => by rw [h]; rfl⟩
    · rw [hgsr, hu]
      have hsearch := demuxOne_of_rejected (cause := cause) hs
      cases hrest : demuxOne ((rxBytes s).drop (i + 1)) id s.gsr.len cause with
      | ok p =>
        rw [hrest] at hsearch
        rw [demuxEntry_of_ok hd hsearch, demuxEntry_of_ok hd hrest, if_pos rfl]
      | error c =>
        rw [hrest] at hsearch
        rw [demuxEntry_of_error hd hsearch, demuxEntry_of_error hd hrest, if_neg (demuxLoop_error _ _ _ _ hrest)]
  · rcases demux_code_cases cause s with ⟨hcode, hall⟩ | ⟨hcode, j, hj, hfails, -⟩
    · exact ⟨fun _ => hall, fun _ => hcode⟩
    · exact ⟨fun h => absurd h hcode, fun h => absurd (hfails.symm.trans (h j hj)) hcode⟩
  · exact fun hcode => ((demux_code_cases cause s).resolve_left fun h => hcode h.1).2
  · exact decide_eq_true_iff

/-! ### The steps of GSR_RX (R115, R133) -/

section
variable {s : State} {nexp : Nat} {rest : List Input}

/-- A delivery to an active GSR_RX. -/
theorem step_deliver_gsr {v : Byte} {q : List Byte} (ha : s.active = some (.gsrRx nexp)) (hq : s.transport.rxq = v :: q)
    (hin : s.inputs = .deliver :: rest) : step s = .next (gsrByte nexp v (taken q rest s)) := by
  rw [step_cons s hin]
  simp only [perform, deliverByte, ha, hq, receiveByte, taken]

theorem step_timeout_gsr (ha : s.active = some (.gsrRx nexp)) (htimer : s.timer = true) (hin : s.inputs = .timeout :: rest) :
    step s = .next (demux .timeout { s with inputs := rest }) := by
  rw [step_cons s hin]
  simp only [perform, receiveTimeout, ha, htimer, if_true]

theorem step_readError_gsr (ha : s.active = some (.gsrRx nexp)) (hin : s.inputs = .readError :: rest) :
    step s = .next (demux .readError { s with inputs := rest }) := by
  rw [step_cons s hin]
  simp only [perform, receiveError, ha]

/-- An active GSR_RX has room for the byte it waits for (R114). -/
theorem Sound.gsr_room (hs : Sound s) (ha : s.active = some (.gsrRx nexp)) :
    s.rxCount.toNat < nexp ∧ nexp ≤ Config.rxCap := by
  obtain ⟨rfl, hlt⟩ := hs.gsrKept nexp ha
  exact ⟨hlt, hs.gsrFits (hs.gsrOwner.1 (.inr (hs.gsrPending.2 ⟨_, ha⟩)))⟩

end

/-- Settles O48: the byte has room by `Sound.gsr_room`, and each end is a step of its own. -/
theorem gsrRxCollectsEveryByte : Obligations.GsrRxCollectsEveryByte := by
  unfold Obligations.GsrRxCollectsEveryByte
  intro s nexp rest hs ha
  obtain ⟨hwaits, hfits⟩ := hs.gsr_room ha
  have hcap := rxCap_le
  refine ⟨fun v q hq hin => ?_, step_timeout_gsr ha (by rw [hs.timer, ha]; rfl), step_readError_gsr ha⟩
  have hcount : (appendRx v (taken q rest s)).rxCount.toNat = s.rxCount.toNat + 1 :=
    appendRx_rxCount_toNat (s := taken q rest s) v (Nat.lt_of_lt_of_le hwaits hfits)
  refine ⟨appendRx v (taken q rest s), appendRx_taken_eq v q rest s, hcount, ?_, fun a => byteOf_appendRx_taken v q rest,
    hwaits, ?_⟩
  · exact rxBytes_appendRx v (s := taken q rest s) (Nat.lt_of_lt_of_le hwaits (hfits.trans hcap))
  · rw [step_deliver_gsr ha hq hin, ← hcount]
    rfl

/-- Settles O50: without bytes every search answers the code of the cause, and so the overall code is that. -/
theorem gsrTimeoutWithoutBytes : Obligations.GsrTimeoutWithoutBytes := by
  unfold Obligations.GsrTimeoutWithoutBytes
  intro s nexp rest ha htimer hcount hids hin
  have hrx : rxBytes s = [] := List.eq_nil_of_length_eq_zero (by rw [rxBytes_length, hcount]; rfl)
  have hdev : ∀ j, gsrDevOf (demux .timeout { s with inputs := rest }).gsr j =
      if (gsrDevOf s.gsr j).present then { gsrDevOf s.gsr j with valid := false, idres := .rxTimeout }
      else gsrDevOf s.gsr j := fun j => by
    rw [gsrDevOf_demux, show rxBytes { s with inputs := rest } = [] from hrx]
    rfl
  have hcode : (demux .timeout { s with inputs := rest }).code = .rxTimeout := by
    rcases demux_code_cases .timeout { s with inputs := rest } with ⟨-, hall⟩ | ⟨-, j, hj, hfails, -⟩
    · obtain ⟨j, hj⟩ : ∃ j, (gsrDevOf s.gsr j).present = true := by
        simpa [gsrCount_eq_zero] using hids
      have hsuccess := hall j hj
      rw [hdev, if_pos hj] at hsuccess
      cases hsuccess
    · rw [← hfails, hdev, if_pos hj]
  have hregisters := demux_eq .timeout { s with inputs := rest }
  have hengine := demux_gsr_eq .timeout { s with inputs := rest }
  rw [hcode] at hregisters hengine
  exact ⟨_, step_timeout_gsr ha htimer hin, hregisters, hengine, hdev⟩

/-! ### A corrupted frame among others (R118) -/

/-- Behind its only header's first byte, bytes hold no other header of the ID. -/
theorem noCandidate_behind {b : List Byte} {x : Byte} {k : Nat}
    (honly : ∀ h, b[h]? = some 0xFF → b[h + 1]? = some 0xFF → b[h + 2]? = some x → h = k) :
    NoCandidate false x (b.drop (k + 1)) [] := by
  intro i _ h0 h1
  refine ⟨rfl, fun h2 => ?_⟩
  simp only [List.append_nil, List.getElem?_drop] at h0 h1 h2
  have := honly (k + 1 + i) h0 h1 h2
  omega

/-- Before its only header, bytes hold no other header of the ID. -/
theorem noCandidate_before {g f rest : List Byte} {x : Byte}
    (honly : ∀ h, (g ++ f ++ rest)[h]? = some 0xFF → (g ++ f ++ rest)[h + 1]? = some 0xFF →
      (g ++ f ++ rest)[h + 2]? = some x → h = g.length) : NoCandidate false x g f := by
  have hextend : ∀ {j : Nat} {y : Byte}, (g ++ f)[j]? = some y → (g ++ f ++ rest)[j]? = some y := fun hj =>
    (List.getElem?_append_left (List.getElem?_eq_some_iff.1 hj).1).trans hj
  intro i hi h0 h1
  exact ⟨rfl, fun h2 => absurd (honly i (hextend h0) (hextend h1) (hextend h2)) (Nat.ne_of_lt hi)⟩

/-- Bytes without a header of the ID answer no candidate. -/
theorem missing_of_noCandidate {b : List Byte} {x : Byte} (h : NoCandidate false x b []) : Missing b x := by
  suffices ∀ k, ∃ i, scanFrom false x k b = .incomplete i ∨ scanFrom false x k b = .noHeader i from this 0
  induction b with
  | nil => exact fun k => ⟨k, .inr rfl⟩
  | cons c bs ih =>
    intro k
    rcases scanAt_cases false x k (c :: bs) with hs | ⟨hs, -⟩ | ⟨id, len, body, hb, hid, -⟩
    · rw [scanFrom_of_scanAt_none hs]
      exact ih (fun i hi => h (i + 1) (Nat.succ_lt_succ hi)) (k + 1)
    · exact ⟨k, .inl (scanFrom_of_scanAt hs)⟩
    · obtain rfl : id = x := by simpa using hid
      rw [hb] at h
      exact absurd rfl (h 0 (Nat.zero_lt_succ _) rfl rfl).2

/-- A scan that reaches a built frame with another checksum byte fails there (R61, R81). -/
theorem scanFrom_corrupted {any : Bool} {x id error cs : Byte} {p f : List Byte} {k : Nat}
    (hf : buildFrame id error p = some f) (hx : any = true ∨ id = x) (hcs : f.getLast? ≠ some cs) (rest : List Byte) :
    scanFrom any x k (f.dropLast ++ [cs] ++ rest) = .failed k := by
  obtain ⟨hp, hshape⟩ := buildFrame_eq_some hf
  have hbytes : f = (Config.headerByte :: Config.headerByte :: id :: BitVec.ofNat 8 (p.length + 2) :: error :: p) ++
      [checksum (id :: BitVec.ofNat 8 (p.length + 2) :: error :: p)] := hshape
  rw [hbytes, List.getLast?_concat] at hcs
  have hwrong : cs ≠ checksum (id :: BitVec.ofNat 8 (p.length + 2) :: error :: p) := fun h => hcs (by rw [h])
  have hlen := lenByte_toNat hp
  simp only [Config.maxParams] at hp
  have hbody : scanBody k id (BitVec.ofNat 8 (p.length + 2)) (error :: (p ++ [cs] ++ rest)) = .failed k := by
    simp only [scanBody, hlen, Config.rxFrameMax, show p.length + 2 - 1 = p.length + 1 by omega, List.length_cons,
      List.length_append, List.getD_cons_succ, List.take_succ_cons, List.append_assoc, List.take_left]
    rw [if_neg (by omega), if_neg (by simp), if_pos (by simpa using hwrong)]
  rw [hbytes, List.dropLast_concat]
  exact scanFrom_of_scanAt ((scanAt_candidate hx _).trans (congrArg some hbody))

section
variable {id error cs len : Byte} {p g f : List Byte} {cause : EndCause}

/-- The search finds a built frame of L parameters behind bytes without a header of its ID. -/
theorem demuxOne_frame (hf : buildFrame id error p = some f) (hp : p.length = len.toNat) (hg : NoCandidate false id g f)
    (rest : List Byte) : demuxOne (g ++ f ++ rest) id len cause = .ok ⟨id, error, p⟩ := by
  have hlength := buildFrame_length hf
  refine demuxOne_of_packet (i := 0 + g.length) ?_ hp
  rw [scan, scanFrom_append_of_noCandidate (by omega) hg, scanFrom_frame hf (.inr rfl)]

/-- The search gives RxCorrupt where the only header of the ID is that of a frame with another checksum byte. -/
theorem demuxOne_corrupted {rest : List Byte} (hf : buildFrame id error p = some f) (hcs : f.getLast? ≠ some cs)
    (honly : ∀ h, (g ++ (f.dropLast ++ [cs]) ++ rest)[h]? = some 0xFF →
      (g ++ (f.dropLast ++ [cs]) ++ rest)[h + 1]? = some 0xFF →
      (g ++ (f.dropLast ++ [cs]) ++ rest)[h + 2]? = some id → h = g.length) :
    demuxOne (g ++ (f.dropLast ++ [cs]) ++ rest) id len cause = .error .rxCorrupt := by
  have hlength := buildFrame_length hf
  have hfailed : scan (g ++ (f.dropLast ++ [cs]) ++ rest) false id = .failed (0 + g.length) := by
    rw [scan, scanFrom_append_of_noCandidate _ (noCandidate_before honly), scanFrom_corrupted hf (.inr rfl) hcs]
    simp only [List.length_append, List.length_dropLast, List.length_singleton]
    omega
  rw [Nat.zero_add] at hfailed
  rw [demuxOne_of_rejected (.inl hfailed), demuxOne_of_missing (missing_of_noCandidate (noCandidate_behind honly))]
  rfl

end

/-- Settles O49: a's and c's frames by `demuxOne_frame`, b's by `demuxOne_corrupted`; c succeeds, so b's code is the overall one. -/
theorem partialFailureIsolation : Obligations.PartialFailureIsolation := by
  unfold Obligations.PartialFailureIsolation
  intro s cause a b c ea eb ec cs pa pb pc fa fb fc stream hids hpa hpb hpc hfa hfb hfc hcs hstream hrx hb hc
  subst hstream
  have hpresent : ∀ j ∈ [a.toNat, b.toNat, c.toNat], (gsrDevOf s.gsr j).present = true := fun j hj =>
    (mem_gsrIds_iff s.gsr j).1 (hids ▸ hj)
  have hlength : (fa ++ (fb.dropLast ++ [cs])).length = fa.length + fb.length := by
    have := buildFrame_length hfb
    simp only [List.length_append, List.length_dropLast, List.length_singleton]
    omega
  have hda : demuxOne (rxBytes s) a s.gsr.len cause = .ok ⟨a, ea, pa⟩ := by
    rw [hrx, List.append_assoc]
    exact demuxOne_frame (g := []) hfa hpa nofun _
  have hdb : demuxOne (rxBytes s) b s.gsr.len cause = .error .rxCorrupt := by
    rw [hrx]
    exact demuxOne_corrupted hfb hcs hb
  have hdc : demuxOne (rxBytes s) c s.gsr.len cause = .ok ⟨c, ec, pc⟩ := by
    rw [← List.append_nil (_ ++ fc), ← hlength] at hc
    rw [hrx, ← List.append_nil (_ ++ fc)]
    exact demuxOne_frame hfc hpc (noCandidate_before hc) []
  have hcode : (demux cause s).code = .rxCorrupt := by
    show demuxOverall (rxBytes s) s.gsr.len cause (gsrIds s.gsr) = _
    simp only [demuxOverall, hids, List.foldl_cons, List.foldl_nil, BitVec.ofNat_toNat, BitVec.setWidth_eq, hda, hdb, hdc]
  have hengine := demux_gsr_eq cause s
  rw [hcode] at hengine
  have hea := (gsrDevOf_demux cause s a.toNat).trans (demuxEntry_of_ok (hpresent a.toNat (by simp)) hda)
  have heb := (gsrDevOf_demux cause s b.toNat).trans (demuxEntry_of_error (hpresent b.toNat (by simp)) hdb)
  have hec := (gsrDevOf_demux cause s c.toNat).trans (demuxEntry_of_ok (hpresent c.toNat (by simp)) hdc)
  refine ⟨hcode, congrArg Gsr.phase hengine, congrArg Gsr.lastOk hengine, rfl, rfl, rfl, rfl,
    congrArg GsrDev.idres hea, congrArg GsrDev.valid hea, congrArg GsrDev.iderr hea, ?_, heb,
    congrArg GsrDev.idres hec, congrArg GsrDev.valid hec, congrArg GsrDev.iderr hec, ?_⟩
  · rw [hea, ← hpa]
    exact slotBytes_writeSlot _ _ _
  · rw [hec, ← hpc]
    exact slotBytes_writeSlot _ _ _

end Sys2Proof.Machine
end

section
/-! SUPPORT and the statement O54. The guard's owner: no command changes it while the guard is held, and an event of a receive frees
it only where it ends the receive. -/

namespace Sys2Proof.Machine

/-- The guard stays with its owner. -/
def KeepsOwner (s t : State) : Prop := t.owner = s.owner

/-- An active receive ended and freed the guard (R87, R117). -/
def EndsReceive (s t : State) : Prop := s.active.isSome = true ∧ t.active = none ∧ t.owner = .nobody

theorem KeepsHostFields.inputs {s t : State} (h : KeepsHostFields s t) : t.inputs = s.inputs :=
  congrArg HostFields.inputs h

section
variable (s : State)

/-! ### The commands, while the guard is held -/

theorem encodeFrame_owner (id instr : Byte) (p : List Byte) : KeepsOwner s (encodeFrame id instr p s) := by
  rcases encodeFrame_cases id instr p s with ⟨-, h⟩ | ⟨-, f, -, -, h⟩ <;> rw [h] <;> rfl

theorem frameInstr_owner (id instr : Byte) (p : List Byte) : EveryNext (KeepsOwner s) (frameInstr id instr p s) :=
  everyNext_next.2 (encodeFrame_owner (storeParams p s) id instr p)

theorem execCodecScan_owner (id : Byte) (any : Bool) (n : Byte) : EveryNext (KeepsOwner s) (execCodecScan id any n s) := by
  refine everyNext_next.2 ?_
  split <;> rfl

/-- No instruction takes a held guard from its owner (R129): the three transmits take only a free one, CODEC_RECEIVE goes on under
the guard of CODEC and answers PortBusy under that of GSR (R86), and no other instruction writes the guard. -/
theorem exec_owner_of_busy (hb : s.busy = true) (i : Instr) : EveryNext (KeepsOwner s) (exec i s) := by
  cases i
  case ping | read | write | regwrite | action | syncread | syncwrite => exact frameInstr_owner s _ _ _
  case codecEncode id instr k => exact everyNext_next.2 (encodeFrame_owner s id instr _)
  case codecScan id any n => exact execCodecScan_owner s id any n
  case codecTransmit expect => exact everyNext_next.2 (by rw [if_pos hb]; rfl)
  case gswTransmit | gsrTxreq => exact everyNext_next.2 (by rw [if_pos hb]; split_ifs <;> rfl)
  case codecReceive id any nexp => exact everyNext_next.2 (by dsimp only; rw [if_pos hb]; split_ifs <;> rfl)
  case codecChecksum | wordMake | wordLobyte | wordHibyte | signToHost | signToDevice | gswInit | gswClear | gsrIsAvailable =>
    exact everyNext_next.2 rfl
  case gswAdd | gswRemove | gswChange | gsrInit | gsrAdd | gsrRemove | gsrClear | gsrRx | gsrGetValue | gsrIdResult =>
    exact everyNext_next.2 (by split_ifs <;> rfl)

/-! ### The host's inputs -/

/-- All that a read, a write or a packet can do: it runs an instruction, or it leaves the guard's owner and the inputs to come
as they are. -/
def AnswersHost (s t : State) : Prop := (∃ i, exec i s = .next t) ∨ (KeepsOwner s t ∧ t.inputs = s.inputs)

theorem launch_answersHost (v : Word) : EveryNext (AnswersHost s) (launch v s) := by
  unfold launch
  split
  · exact everyNext_next.2 (.inr ⟨rfl, rfl⟩)
  · split
    · exact fun t h => .inl ⟨_, h⟩
    · exact everyNext_next.2 (.inr ⟨rfl, rfl⟩)

theorem memWrite_answersHost (off n : Nat) (v : Word) : AnswersHost s (memWrite off n v s) := by
  unfold memWrite
  split_ifs <;> exact .inr ⟨rfl, rfl⟩

theorem hostWrite_answersHost (off n : Nat) (v : Word) : EveryNext (AnswersHost s) (hostWrite off n v s) := by
  unfold hostWrite
  split_ifs
  · exact launch_answersHost s v
  · exact everyNext_next.2 (memWrite_answersHost s off n v)
  · exact everyNext_fault

theorem hostRead_answersHost (off n : Nat) : EveryNext (AnswersHost s) (hostRead off n s) := by
  unfold hostRead
  split_ifs
  · exact everyNext_next.2 (.inr ⟨rfl, rfl⟩)
  · exact everyNext_fault

theorem hostPacket_answersHost (bytes : List Byte) : EveryNext (AnswersHost s) (hostPacket bytes s) := by
  unfold hostPacket
  split
  · split
    · exact everyNext_next.2 (.inr ⟨rfl, rfl⟩)
    · exact fun t h => .inl ⟨_, h⟩
  · exact everyNext_refused

theorem AnswersHost.owner {s t : State} (h : AnswersHost s t) (hb : s.busy = true) : KeepsOwner s t := by
  obtain ⟨i, hi⟩ | ⟨howner, -⟩ := h
  · exact exec_owner_of_busy s hb i t hi
  · exact howner

theorem AnswersHost.inputs {s t : State} (h : AnswersHost s t) : t.inputs = s.inputs := by
  obtain ⟨i, hi⟩ | ⟨-, hinputs⟩ := h
  · exact (exec_hostFields s i t hi).inputs
  · exact hinputs

/-! ### The events of a receive (R87, R117, R133) -/

theorem receiveByte_owner (v : Byte) : KeepsOwner s (receiveByte v s) ∨ EndsReceive s (receiveByte v s) := by
  unfold receiveByte
  split
  · exact .inl rfl
  · rename_i ha
    unfold codecByte
    dsimp only
    split
    · exact .inr ⟨by rw [ha]; rfl, rfl, rfl⟩
    · exact .inr ⟨by rw [ha]; rfl, rfl, rfl⟩
    · exact .inl rfl
    · exact .inl rfl
  · rename_i ha
    unfold gsrByte
    dsimp only
    split
    · exact .inr ⟨by rw [ha]; rfl, rfl, rfl⟩
    · exact .inl rfl

theorem deliverByte_owner : KeepsOwner s (deliverByte s) ∨ EndsReceive s (deliverByte s) := by
  unfold deliverByte
  split
  · rename_i v q _ _
    exact receiveByte_owner { s with transport := { s.transport with rxq := q } } v
  · exact .inl rfl

theorem receiveError_owner : KeepsOwner s (receiveError s) ∨ EndsReceive s (receiveError s) := by
  unfold receiveError
  split
  · exact .inl rfl
  · rename_i ha; exact .inr ⟨by rw [ha]; rfl, rfl, rfl⟩
  · rename_i ha; exact .inr ⟨by rw [ha]; rfl, rfl, rfl⟩

theorem receiveTimeout_owner : KeepsOwner s (receiveTimeout s) ∨ EndsReceive s (receiveTimeout s) := by
  unfold receiveTimeout
  split
  · split
    · exact .inl rfl
    · rename_i ha; exact .inr ⟨by rw [ha]; rfl, rfl, rfl⟩
    · rename_i ha; exact .inr ⟨by rw [ha]; rfl, rfl, rfl⟩
  · exact .inl rfl

/-! ### Every step -/

theorem perform_owner_of_busy (hb : s.busy = true) {e : Input} (he : e ≠ .reset) :
    EveryNext (fun t => KeepsOwner s t ∨ EndsReceive s t) (perform e s) := by
  cases e with
  | read off n => exact fun t h => .inl ((hostRead_answersHost s off n t h).owner hb)
  | write off n v => exact fun t h => .inl ((hostWrite_answersHost s off n v t h).owner hb)
  | packet bytes => exact fun t h => .inl ((hostPacket_answersHost s bytes t h).owner hb)
  | arrive b => exact everyNext_next.2 (.inl rfl)
  | deliver => exact everyNext_next.2 (deliverByte_owner s)
  | readError => exact everyNext_next.2 (receiveError_owner s)
  | timeout => exact everyNext_next.2 (receiveTimeout_owner s)
  | reset => exact absurd rfl he

/-- With no input left an active receive sees its timeout (log 5). -/
theorem step_nil (h : s.inputs = []) : step s = .next (receiveTimeout s) := by
  simp only [step, takeInput, h, idleStep]

/-- A step other than reset leaves a held guard with its owner, or ends an active receive and frees it. -/
theorem step_owner_of_busy {t : State} (hb : s.busy = true) (hreset : ∀ rest, s.inputs ≠ .reset :: rest)
    (h : step s = .next t) : KeepsOwner s t ∨ EndsReceive s t := by
  cases hin : s.inputs with
  | nil =>
    obtain rfl := Host.Outcome.next.inj ((step_nil s hin).symm.trans h)
    exact receiveTimeout_owner s
  | cons e rest =>
    have he : e ≠ .reset := fun he => hreset rest (by rw [hin, he])
    rw [step_cons s hin] at h
    exact perform_owner_of_busy { s with inputs := rest } hb he t h

end

/-! ### Whose receive is active -/

section
variable {s : State} (hs : Sound s)
include hs

theorem Sound.busy_of_held (ho : s.owner ≠ .nobody) : s.busy = true :=
  Bool.of_not_eq_false fun hb => ho (hs.owner_of_free hb)

/-- A receive that is active while GSR holds the guard is a GSR_RX (R86). -/
theorem Sound.gsrRx_of_owner (ho : s.owner = .gsr) (ha : s.active.isSome = true) : ∃ n, s.active = some (.gsrRx n) := by
  obtain ⟨c, hc⟩ := Option.isSome_iff_exists.1 ha
  cases c with
  | codecReceive x any n => simp [hs.codecOwner x any n hc] at ho
  | gsrRx n => exact ⟨n, hc⟩

/-- A receive that is active while CODEC holds the guard is a CODEC_RECEIVE (R35, R107). -/
theorem Sound.codecReceive_of_owner (ho : s.owner = .codec) (ha : s.active.isSome = true) :
    ∃ x any n, s.active = some (.codecReceive x any n) := by
  obtain ⟨c, hc⟩ := Option.isSome_iff_exists.1 ha
  cases c with
  | codecReceive x any n => exact ⟨x, any, n, hc⟩
  | gsrRx n => simp [hs.gsrOwner.1 (.inr (hs.gsrPending.2 ⟨n, hc⟩))] at ho

end

/-- Settles O54: a step keeps the owner or ends the active receive, and by soundness that receive is the owner's. -/
theorem guardIsHeldUntilTheReceiveEnds : Obligations.GuardIsHeldUntilTheReceiveEnds := by
  unfold Obligations.GuardIsHeldUntilTheReceiveEnds
  intro s t hs h hreset
  have hstep : s.owner ≠ .nobody → KeepsOwner s t ∨ EndsReceive s t := fun ho =>
    step_owner_of_busy s (hs.busy_of_held ho) hreset h
  refine ⟨fun ho => ?_, fun ho => ?_⟩
  · exact (hstep (by simp [ho])).imp (fun hkept => hkept.trans ho) fun ⟨ha, hended⟩ => ⟨hs.gsrRx_of_owner ho ha, hended⟩
  · exact (hstep (by simp [ho])).imp (fun hkept => hkept.trans ho) fun ⟨ha, hended⟩ =>
      ⟨hs.codecReceive_of_owner ho ha, hended⟩

end Sys2Proof.Machine
end

section
/-! SUPPORT and the statement O56. A step takes one input off the list, so a run longer than the list ends with the idle step, in
which an active receive times out. -/

namespace Sys2Proof.Machine

/-! ### A step takes one input -/

section
variable (s : State)

/-- What an input does leaves the list of the others alone. -/
theorem perform_inputs (e : Input) : EveryNext (fun t => t.inputs = s.inputs) (perform e s) := by
  cases e with
  | read off n => exact fun t h => (hostRead_answersHost s off n t h).inputs
  | write off n v => exact fun t h => (hostWrite_answersHost s off n v t h).inputs
  | packet bytes => exact fun t h => (hostPacket_answersHost s bytes t h).inputs
  | arrive b => exact everyNext_next.2 rfl
  | deliver => exact everyNext_next.2 (deliverByte_hostFields s).inputs
  | readError => exact everyNext_next.2 (receiveError_hostFields s).inputs
  | timeout => exact everyNext_next.2 (receiveTimeout_hostFields s).inputs
  | reset => exact everyNext_next.2 rfl

theorem step_inputs {t : State} {e : Input} {rest : List Input} (hin : s.inputs = e :: rest) (h : step s = .next t) :
    t.inputs = rest := by
  rw [step_cons s hin] at h
  exact perform_inputs { s with inputs := rest } e t h

end

/-! ### The end of a run -/

/-- While the timer runs exactly for an active receive, a timeout leaves no receive active (R133, R134). -/
theorem receiveTimeout_active {s : State} (htimer : s.timer = s.active.isSome) : (receiveTimeout s).active = none := by
  unfold receiveTimeout
  split
  · split
    · assumption
    · rfl
    · rfl
  · rename_i hstopped
    simpa [htimer] using hstopped

/-- A run that stops at no fault has a first step, and goes on from its next state. -/
theorem run_succ_eq_next {n : Nat} {s t : State} (h : Host.Core.run core (n + 1) s = .next t) :
    ∃ u, step s = .next u ∧ Host.Core.run core n u = .next t := by
  have hcore : core.step s = step s := rfl
  simp only [Host.Core.run, hcore] at h
  split at h
  · exact ⟨_, ‹_›, h⟩
  · cases h
  · cases h

/-- Settles O56, by induction on the inputs: each step takes one and keeps the state sound, and the idle step after the last one
ends a receive that is still active. -/
theorem everyReceiveEnds : Obligations.EveryReceiveEnds := by
  unfold Obligations.EveryReceiveEnds
  intro s t hs h
  induction hin : s.inputs generalizing s with
  | nil =>
    rw [hin, List.length_nil, run_one, step_nil s hin] at h
    obtain rfl := Host.Outcome.next.inj h
    exact receiveTimeout_active hs.timer
  | cons e rest ih =>
    rw [hin, List.length_cons] at h
    obtain ⟨u, hstep, hrun⟩ := run_succ_eq_next h
    have hrest := step_inputs s hin hstep
    exact ih u (step_sound hs u hstep) (by rwa [hrest]) hrest

end Sys2Proof.Machine
end

section
/-! SUPPORT and the statement O57. Reset: the tables' entries and the registers' words right after it. -/

namespace Sys2Proof.Machine

/-! ### The tables after reset (R31, R34, R141) -/

@[simp] theorem resetBlock_gsw (s : State) : (resetBlock s).gsw = State.reset.gsw := rfl
@[simp] theorem resetBlock_gsr (s : State) : (resetBlock s).gsr = State.reset.gsr := rfl

theorem gswDevOf_resetBlock (s : State) (i : Nat) : gswDevOf (resetBlock s).gsw i = GswDev.reset := by
  unfold gswDevOf
  split
  · exact Vector.getElem_replicate _
  · rfl

theorem gsrDevOf_resetBlock (s : State) (i : Nat) : gsrDevOf (resetBlock s).gsr i = GsrDev.reset := by
  unfold gsrDevOf
  split
  · exact Vector.getElem_replicate _
  · rfl

/-! ### The registers after reset (R18 to R25, R141) -/

/-- A free guard, no active command and no flag: every field of STATUS is 0. -/
theorem statusWord_resetBlock (s : State) : statusWord (resetBlock s) = 0 :=
  BitVec.eq_of_toNat_eq (statusWord_toNat (resetBlock s))

theorem pktInfoWord_resetBlock (s : State) : pktInfoWord (resetBlock s).pktInfo = 0 :=
  BitVec.eq_of_toNat_eq (pktInfoWord_toNat (resetBlock s).pktInfo)

theorem txInfoWord_resetBlock (s : State) : txInfoWord (resetBlock s) = 0 :=
  BitVec.eq_of_toNat_eq (txInfoWord_toNat (resetBlock s))

theorem rxInfoWord_resetBlock (s : State) : rxInfoWord (resetBlock s) = 0 :=
  BitVec.eq_of_toNat_eq (rxInfoWord_toNat (resetBlock s))

/-- COUNT is 0 because PHASE is Empty (R32), so DIRTY, bit 26, is the only field that is not 0. -/
theorem gswInfoWord_resetBlock (s : State) : gswInfoWord (resetBlock s).gsw = 0x04000000 := by
  have hcount : gswCount State.reset.gsw = 0 := gswSound_reset.phase.1 rfl
  refine BitVec.eq_of_toNat_eq ?_
  rw [resetBlock_gsw, gswInfoWord_toNat, hcount]
  rfl

/-- COUNT is 0 because PHASE is Empty (R35), so DIRTY, bit 27, is the only field that is not 0. -/
theorem gsrInfoWord_resetBlock (s : State) : gsrInfoWord (resetBlock s).gsr = 0x08000000 := by
  have hcount : gsrCount State.reset.gsr = 0 := gsrSound_reset.phase.1 rfl
  refine BitVec.eq_of_toNat_eq ?_
  rw [resetBlock_gsr, gsrInfoWord_toNat, hcount]
  rfl

/-! ### The step of a reset -/

/-- R140: a reset input is one step, whatever the block does. -/
theorem step_reset {s : State} {rest : List Input} (h : s.inputs = .reset :: rest) :
    step s = .next (resetBlock { s with inputs := rest }) :=
  step_cons s h

/-- Settles O57: the reset block keeps the transport by its definition, each register reads as its word by `memRead_register`,
and every table entry is the reset entry. -/
theorem resetLeavesTheResetValues : Obligations.ResetLeavesTheResetValues := by
  unfold Obligations.ResetLeavesTheResetValues
  intro s rest h
  have hread : ∀ {t : State} (off : Nat), off < 0x100 → off % 4 = 0 → memRead t off 4 = regWord t off :=
    fun {t} _ => memRead_register t
  refine ⟨_, step_reset h, rfl, rfl, rfl, rfl, rfl, rfl, rfl,
    hread 0x000 (by decide) rfl,
    (hread 0x004 (by decide) rfl).trans (statusWord_resetBlock _),
    hread 0x008 (by decide) rfl,
    hread 0x00C (by decide) rfl,
    (hread 0x010 (by decide) rfl).trans (pktInfoWord_resetBlock _),
    (hread 0x014 (by decide) rfl).trans (txInfoWord_resetBlock _),
    (hread 0x018 (by decide) rfl).trans (rxInfoWord_resetBlock _),
    (hread 0x01C (by decide) rfl).trans (gswInfoWord_resetBlock _),
    (hread 0x020 (by decide) rfl).trans (gsrInfoWord_resetBlock _),
    fun j => ?_⟩
  rw [gswDevOf_resetBlock, gsrDevOf_resetBlock]
  exact ⟨rfl, rfl, rfl, rfl, rfl⟩

end Sys2Proof.Machine
end
